-- ==== Sys2Proof/Word.lean ====
section
/-! DEFINITION. The plain data the model is built from: octets, station addresses, tables of a fixed size, and
the clamp and the saturating count of the manual's conventions (00_scope.md, Conventions). Quantities that the manual
adds, compares or counts (codes, times, counts) are `Nat` or `Int`; a value is a bit vector only where the manual
numbers its bits. -/

namespace Sys2Proof

/-- Eight bits of a frame or of the option block. -/
abbrev Octet := BitVec 8

/-- A ten-bit station address (R201). -/
abbrev Addr := BitVec 10

/-- A fixed number of like things (channels, chains, ports, slots, tile records), held as a list that carries its
length once. -/
structure Table (α : Type) (n : Nat) where
  cells : List α
  size : cells.length = n
  deriving DecidableEq, Repr

/-- The table that holds `x` in every place. -/
def Table.replicate {α : Type} (n : Nat) (x : α) : Table α n :=
  ⟨List.replicate n x, List.length_replicate⟩

/-- The entry at place `i`. -/
def Table.get {α : Type} {n : Nat} (t : Table α n) (i : Fin n) : α :=
  t.cells.get (i.cast t.size.symm)

/-- The table with place `i` set to `x`. -/
def Table.set {α : Type} {n : Nat} (t : Table α n) (i : Fin n) (x : α) : Table α n :=
  ⟨t.cells.set i x, by rw [List.length_set, t.size]⟩

/-- The table with `f` applied to the entry at place `i`. -/
def Table.modify {α : Type} {n : Nat} (t : Table α n) (i : Fin n) (f : α → α) : Table α n :=
  t.set i (f (t.get i))

/-- The table with `f` applied to every entry. -/
def Table.map {α β : Type} {n : Nat} (t : Table α n) (f : α → β) : Table β n :=
  ⟨t.cells.map f, by rw [List.length_map, t.size]⟩

/-- The table whose place `i` holds `f i`. -/
def Table.tabulate {α : Type} (n : Nat) (f : Fin n → α) : Table α n :=
  ⟨(List.finRange n).map f, by rw [List.length_map, List.length_finRange]⟩

/-- The table with every entry replaced by what `f` gives for its place and its present value. -/
def Table.mapWithIndex {α β : Type} {n : Nat} (t : Table α n) (f : Fin n → α → β) : Table β n :=
  Table.tabulate n fun i => f i (t.get i)

/-- A value clamped into a range: raised to `lo` if below it, lowered to `hi` if above it. -/
def clamp (lo hi v : Nat) : Nat := min (max v lo) hi

/-- A signed value clamped into `0..hi` (R9, R12). -/
def clampInt (hi : Nat) (v : Int) : Nat := min v.toNat hi

/-- One more, stopping at `top`: a saturating counter. -/
def satSucc (top n : Nat) : Nat := min (n + 1) top

end Sys2Proof
end

