-- ==== Sys2Proof/Config.lean ====
section
/-! DEFINITION. The lengths, depths and counts that the manual fixes for every VF330, and the two free values of the model: what
other stations put on the corridor line between the commands that say so. The manual leaves no value of the part's own open; what
the option block configures is state (`Machine.Options`), since it is read at start. -/

namespace Sys2Proof.Config

/-- A quarter-second of the time base, in microseconds (R1). -/
def quarterSecond : Nat := 250000

/-- A second of the time base, in microseconds (R1). -/
def second : Nat := 1000000

/-- The microseconds between the attempts to read the option block (R202). -/
def attemptSpacing : Nat := 1000

/-- The settling wait of the start-up unit (R209). -/
def settlingWait : Nat := 20000

/-- The quiet time after which ADDRESS_CLASH is withdrawn (R44). -/
def clashQuiet : Nat := 60 * second

/-- The census retry interval of a DOWN chain (R121). -/
def censusRetry : Nat := 10 * second

/-- One conversion of the supply scanner's ADC (R2). -/
def conversion : Nat := 20

/-- The least time between two takes of the status collector (R145). -/
def collectorGap : Nat := 2

/-- PWM counts in one microsecond (R2: 16 MHz). -/
def pwmPerMicro : Nat := 16

/-- PWM counts in one PWM period (R2). -/
def pwmPeriod : Nat := 4096

/-- PWM counts between the period starts of neighbouring ports (R140). -/
def pwmStagger : Nat := 1024

/-- The edges that 8 MHz sampling can stamp in one microsecond (R18). -/
def edgesPerMicro : Nat := 4

/-- PWM counts in half a microsecond, which is one chain bit time (R2: 16 MHz and 2 MHz). -/
def pwmPerHalf : Nat := 8

/-- Recessive samples that make the line idle (R33). -/
def idleBits : Nat := 12

/-- The dominant sample that makes the line stuck, where the stuck count holds (R39). -/
def stuckBits : Nat := 65

/-- Places of the transmit queue (R51). -/
def queuePlaces : Nat := 8

/-- Aborts at which a frame is dropped (R37). -/
def abortLimit : Nat := 3

/-- The top of the clean-send run (R38). -/
def cleanRunTop : Nat := 16

/-- The top of a line counter (R56). -/
def counterTop : Nat := 65535

/-- Octets of the longest payload (R35). -/
def payloadMax : Nat := 24

/-- Depth of a readback FIFO (R128). -/
def fifoDepth : Nat := 8

/-- Records the fault table holds (R163). -/
def faultPlaces : Nat := 24

/-- The cleared age at which a record is removed (R171). -/
def removalAge : Nat := 120

/-- The count of records at or below which the overflow flag is cleared (R175). -/
def overflowRelease : Nat := 20

/-- The ready age at which the deferred record is freed (R197). -/
def readyFreeAge : Nat := 32

/-- Passes that a board spends STARTING (R83, R85). -/
def startingPasses : Nat := 8

/-- Octets of the option block (R216). -/
def blockOctets : Nat := 91

/-- The command bits of a read attempt: the read command octet 0x03, followed by the two-octet address 0 (R202). -/
def readCommand : BitVec 24 := 0x030000

/-- FREE VALUE: the line, sampled at this count of the time base while other stations may drive it, reads dominant (R32; log entry 5). -/
opaque heardDominant : Nat → Bool

/-- FREE VALUE: how long after the sample at this count the line next turns from recessive to dominant, when it does so within a bit
time (R32, R33; log entry 5). -/
opaque heardEdge : Nat → Option Nat

/-- FREE VALUE: the levels of a port's select outputs, as many as there are, for the port and the code of the operation that they were
last set for, absent before the first (Chapter 7, R114; log entry 28). -/
opaque selectLevels : Nat → Option Nat → List Bool

end Sys2Proof.Config
end

