-- ==== Sys2Proof/Syntax.lean ====
section
/-! DEFINITION. The commands of the VF330: one constructor of `Instr` for each row of spec/opcode_table.json, with the
values that reach the part with it from outside (straps, octets, words of the tiles, samples, frames of other stations).
Widths are those of Chapter 12; what the part already holds is not repeated in an operand. -/

namespace Sys2Proof

/-- The three sources of reset, and the start cause each sets (R199). -/
inductive ResetSource where
  | power | lowVoltage | pin
  deriving DecidableEq, Repr

/-- Why a frame in assembly is discarded, with the octets of its characters up to then (R41, R42): the last character's stop sample is
dominant, the third character is a length above 24, the line becomes idle before the frame is complete, or the sum of the complete
frame is bad. -/
inductive DiscardCause where
  | framingError (octets : List Octet)
  | badLength (octets : List Octet)
  | idleBeforeComplete (octets : List Octet)
  | badCheck (octets : List Octet)
  deriving DecidableEq, Repr

/-- The fault kinds of 9.2. -/
inductive FaultKind where
  | sensorSilent
  | chainDown | chainTimeout | chainIntegrity | tileCount
  | tileOpen | tileShort | tileSupply | thermalWarn | thermalCrit
  | supplyDroop
  | lineError | lineStuck | addressClash
  | configDefaulted
  deriving DecidableEq, Repr

/-- The source of a fault record, 0..63 (R163). -/
abbrev Source := BitVec 6

/-- The detail value of a fault record (R163). -/
abbrev Detail := BitVec 16

/-- The twelve octets of a BEACON's fixed part as the fields they carry, each as it stands on the line (R213). -/
structure BeaconWire where
  mode : Octet
  yOut : BitVec 16
  ambient : BitVec 16
  capLevel : BitVec 16
  capRemaining : BitVec 16
  activeCount : Octet
  /-- Bits 1..0 highest severity, bit 7 overflow flag. -/
  summary : Octet
  seq : Octet
  deriving DecidableEq, Repr

/-- The target, flags and level of a CAP's fixed part, as they stand on the line (R213). -/
structure CapWire where
  base : BitVec 16
  mask : BitVec 16
  /-- Bit 0 BLANK, bit 1 IMMEDIATE. -/
  flags : Octet
  level : BitVec 16
  deriving DecidableEq, Repr

/-- The two codes of a frame's key that stand beside its sender: its urgency and its kind (R36, R212). -/
structure FrameClass where
  urgency : BitVec 2
  code : BitVec 4
  deriving DecidableEq, Repr

/-- The four words of a completed DETAIL (R130, R215). -/
structure DetailWords where
  stringMap : BitVec 32
  temperatures : BitVec 32
  driverSupply : BitVec 32
  errorCounters : BitVec 32
  deriving DecidableEq, Repr

/-- A command: an event of the part, in the order of spec/opcode_table.json. -/
inductive Instr where
  /-- RESET_ASSERT (R199): the source that asserts. -/
  | resetAssert (source : ResetSource)
  /-- RESET_END (R201): the reading of the ten address straps. -/
  | resetEnd (straps : Addr)
  /-- READ_ATTEMPT (R202): the response bit came at bit time 24 + j, or did not come. -/
  | readAttempt (response : Option (Fin 8))
  /-- READ_OUTCOME (R203): the octets clocked in, disregarded when no memory responded. -/
  | readOutcome (octets : List Octet)
  /-- SETTLING_WAIT_EXPIRY (R210). -/
  | settlingWaitExpiry
  /-- SENSOR_EDGE (R19): the channel and the edge's time base stamp. -/
  | sensorEdge (channel : Fin 2) (stamp : Nat)
  /-- GATE_WINDOW_END (R20). -/
  | gateWindowEnd (channel : Fin 2)
  /-- LINE_IDLE (R33). -/
  | lineIdle
  /-- STUCK_DOMINANT (R39). -/
  | stuckDominant
  /-- FRAME_START (R34). -/
  | frameStart
  /-- ARBITRATION_LOSS (R36). -/
  | arbitrationLoss
  /-- BIT_ERROR (R37). -/
  | bitError
  /-- FRAME_SENT (R35). -/
  | frameSent
  /-- FRAME_DISCARD (R41): the cause, with the octets of the frame's characters up to the discard. -/
  | frameDiscard (cause : DiscardCause)
  /-- FRAME_RECEIVED (R43): urgency and kind codes, sender address and payload of a good frame, whose check they determine (R42). -/
  | frameReceived (kind : FrameClass) (sender : Addr) (payload : List Octet)
  /-- CLASH_QUIET_EXPIRY (R44). -/
  | clashQuietExpiry
  /-- BEACON_RECEIVED (R65). -/
  | beaconReceived (sender : Addr) (beacon : BeaconWire)
  /-- CAP_SETTING (R107). -/
  | capSetting (sender : Addr) (cap : CapWire) (duration : BitVec 16)
  /-- CAP_CANCEL (R106): a CAP of duration 0. -/
  | capCancel (sender : Addr) (cap : CapWire)
  /-- QUERY_BAD_ITEM (R184). -/
  | queryBadItem (asker : Addr) (target : BitVec 16) (item argument tag : Octet)
  /-- FAULTS (R187): the argument is the page. -/
  | faults (asker : Addr) (target : BitVec 16) (argument tag : Octet)
  /-- TILE (R188): the argument is the tile index. -/
  | tile (asker : Addr) (target : BitVec 16) (argument tag : Octet)
  /-- TILE_DETAIL (R194): the argument is the tile index. -/
  | tileDetail (asker : Addr) (target : BitVec 16) (argument tag : Octet)
  /-- VIEW (R189): the argument is the slot. -/
  | view (asker : Addr) (target : BitVec 16) (argument tag : Octet)
  /-- LEVELS (R190): the argument is disregarded. -/
  | levels (asker : Addr) (target : BitVec 16) (argument tag : Octet)
  /-- CHAIN (R191): the argument is the logical chain. -/
  | chain (asker : Addr) (target : BitVec 16) (argument tag : Octet)
  /-- LINE (R192): the argument is disregarded. -/
  | line (asker : Addr) (target : BitVec 16) (argument tag : Octet)
  /-- BEACON_BUILD (R55). -/
  | beaconBuild
  /-- NEIGHBOUR_AGING (R69). -/
  | neighbourAging
  /-- CAP_COUNTDOWN (R108). -/
  | capCountdown
  /-- SETTLING_PASS (R78). -/
  | settlingPass
  /-- OPERATION_START (R119). -/
  | operationStart (chain : Fin 4)
  /-- CENSUS_COMPLETE (R124): the lead bit's running bit time. -/
  | censusComplete (chain : Fin 4) (lead : Nat)
  /-- CENSUS_UNUSABLE (R123): the lead bit came straight back, at bit time 0, or did not come. -/
  | censusUnusable (chain : Fin 4) (straightBack : Bool)
  /-- BRIGHTNESS_COMPLETE (R126): the lead bit's running bit time and the echo. -/
  | brightnessComplete (chain : Fin 4) (lead : Nat) (echo : BitVec 32)
  /-- STATUS_WORD_COMPLETE (R128): the lead bit's running bit time and the word. -/
  | statusWordComplete (chain : Fin 4) (lead : Nat) (word : BitVec 32)
  /-- SWEEP_COMPLETE (R127). -/
  | sweepComplete (chain : Fin 4)
  /-- DETAIL_COMPLETE (R131): the lead bit's running bit time, the select echo and the four words. -/
  | detailComplete (chain : Fin 4) (lead : Nat) (echo : BitVec 32) (words : DetailWords)
  /-- TEST_COMPLETE (R133): the lead bit's running bit time and the 254 returned bits, the first in bit 253. -/
  | testComplete (chain : Fin 4) (lead : Nat) (returned : BitVec 254)
  /-- OPERATION_TIMEOUT (R134). -/
  | operationTimeout (chain : Fin 4)
  /-- SWEEP_PERIOD_EXPIRY (R121). -/
  | sweepPeriodExpiry (chain : Fin 4)
  /-- TEST_PERIOD_EXPIRY (R121). -/
  | testPeriodExpiry (chain : Fin 4)
  /-- CENSUS_RETRY_EXPIRY (R121). -/
  | censusRetryExpiry (chain : Fin 4)
  /-- PWM_PERIOD_START (R140). -/
  | pwmPeriodStart (port : Fin 4)
  /-- PWM_ON_TIME_END (R140). -/
  | pwmOnTimeEnd (port : Fin 4)
  /-- COLLECTOR_TAKE (R147). -/
  | collectorTake
  /-- FAULT_RAISE (R167): the request the fault table is to take. -/
  | faultRaise (kind : FaultKind) (source : Source) (detail : Option Detail)
  /-- FAULT_WITHDRAW (R170): the request the fault table is to take. -/
  | faultWithdraw (kind : FaultKind) (source : Source)
  /-- FAULT_CLEARED_AGING (R171). -/
  | faultClearedAging
  /-- DEFERRED_READY_AGING (R197). -/
  | deferredReadyAging
  /-- SUPPLY_SCAN (R159). -/
  | supplyScan
  /-- CONVERSION_COMPLETE (R160): the sample code. -/
  | conversionComplete (sample : BitVec 10)
  /-- LINE_LEAVES_IDLE (R33). -/
  | lineLeavesIdle
  deriving DecidableEq, Repr

end Sys2Proof
end

