-- ==== Sys2Proof/Decode.lean ====
section
/-! DEFINITION. The decoder of the opcode table's words. No row of spec/opcode_table.json gives bits (every row's "fields" is
empty and none has "fixed"), so no word spells a command. -/

namespace Sys2Proof

/-- The command that the table's bits spell: none, since no row gives bits. -/
def decodeTableWord (_nbits _w : Nat) : Option Instr := none

end Sys2Proof
end

