-- ==== Sys2Proof/Machine/State.lean ====
section
/-! DEFINITION. The state of the VF330: every piece of state the manual gives each of its twelve blocks, the requests
that wait for the fault table, and the queue of commands that wait for the part. Codes, times and counts are `Nat`
(all arithmetic is exact, R15); a field that may be absent is an `Option` because the manual calls it absent. -/

namespace Sys2Proof.Machine

open Sys2Proof

/-- The settling controller's mode (5.4). -/
inductive Mode where
  | starting | regulating | held | dark
  deriving DecidableEq, Repr

/-- Severity of a fault kind (R163). -/
inductive Severity where
  | minor | major | critical
  deriving DecidableEq, Repr

/-- The urgency classes of a frame (3.7). -/
inductive Urgency where
  | alarm | order | notice | routine
  deriving DecidableEq, Repr

/-- The five frame kinds (3.7). -/
inductive FrameKind where
  | beacon | faultNotice | cap | query | reply
  deriving DecidableEq, Repr

/-- A frame: its key's parts and its payload; length and check follow from these (R42, R212). -/
structure Frame where
  urgency : Urgency
  sender : Addr
  kind : FrameKind
  payload : List Octet
  deriving DecidableEq, Repr

/-! ### The start-up unit and the values it applies (Chapter 11) -/

/-- The phase of the start-up unit (R200). APPLYING is passed through inside READ_OUTCOME. -/
inductive Phase where
  | resetHeld | reading | applying | powering | running
  deriving DecidableEq, Repr

/-- The line rates (R5). -/
inductive LineRate where
  | kbit31 | kbit62 | kbit125 | kbit250
  deriving DecidableEq, Repr

/-- The values the start-up unit applies, corrected or defaulted (11.6), but for the view windows, which the
neighbour table holds. -/
structure Options where
  lineRate : LineRate
  ownWeight : Nat
  radius : Nat
  gradient : Nat
  slewUp : Nat
  slewDown : Nat
  yPeak : Nat
  yStart : Nat
  yFallback : Nat
  holdSeconds : Nat
  staleSeconds : Nat
  evictSeconds : Nat
  /-- The breakpoints (A_k, Y_k) in order. -/
  curve : List (Nat × Nat)
  tileCounts : Table Nat 4
  /-- The physical port of each logical chain, after R115. -/
  crossbar : Table (Fin 4) 4
  trims : Table Int 4
  sweepSeconds : Nat
  testSeconds : Nat
  testThreshold : Nat
  sensorCount : Nat
  sensorConstants : Table Nat 2
  /-- The gate length in microseconds (R17). -/
  gate : Nat
  /-- The supply nominal of each physical port. -/
  nominals : Table Nat 4
  /-- The droop level k, in thirty-seconds (R159). -/
  droopLevel : Nat
  warn : Nat
  crit : Nat
  deriving DecidableEq, Repr

/-- Which sources hold reset asserted (R199). -/
structure ResetSources where
  power : Bool
  lowVoltage : Bool
  pin : Bool
  deriving DecidableEq, Repr

/-- The start-up unit (R199 to R211). -/
structure StartUp where
  phase : Phase
  sources : ResetSources
  startCause : ResetSource
  /-- The strap reading, the station address for the life of the reset. -/
  address : Option Addr
  attempts : Nat
  /-- The time base count at which the latest attempt began. -/
  attemptBegan : Option Nat
  /-- The bit time after 24 at which the memory's response bit comes in that attempt; absent when none comes. -/
  answered : Option (Fin 8)
  octets : List Octet
  applied : Option Options
  /-- The time base count at which the settling wait expires. -/
  waitEnd : Option Nat
  deriving DecidableEq, Repr

/-! ### The sensor unit (Chapter 2) -/

/-- The edges of one gate window: the count and the first and last stamps (2.1). -/
structure GateWindow where
  count : Nat
  first : Option Nat
  last : Option Nat
  deriving DecidableEq, Repr

/-- The channel states (2.1). -/
inductive Validity where
  | valid | invalid
  deriving DecidableEq, Repr

/-- A sensor channel's record (2.1). `early` holds the stamps, in the order taken, of edges that belong to a window
that has not begun when they are taken (R19); `latest` the stamp of the latest edge taken, and how many edges so far share it
(R18). -/
structure SensorChannel where
  window : GateWindow
  early : List Nat
  latest : Option (Nat × Nat)
  lastCode : Option Nat
  silent : Nat
  state : Validity
  /-- The end count of the window in progress; absent while the channel runs no windows. -/
  windowEnd : Option Nat
  deriving DecidableEq, Repr

/-! ### The line controller (Chapter 3) -/

/-- The frame in flight and its abort count (R37, R51). -/
structure Flight where
  frame : Frame
  aborts : Nat
  deriving DecidableEq, Repr

/-- The two levels of the corridor line (R32). -/
inductive Level where
  | dominant | recessive
  deriving DecidableEq, Repr

/-- How the assembly of a frame ends: at a dominant stop sample, at a length above 24, or with its last character (R41). -/
inductive AssemblyEnd where
  | framingError | badLength | complete
  deriving DecidableEq, Repr

/-- The receive assembler (R41): empty; with the characters of a frame in assembly, between two of them or within one, of which it
then holds the data samples; with a frame whose assembly has ended, until the command of that event deals with it (log entry 7); or
taking no further characters until the line next becomes idle. -/
inductive Assembler where
  | empty
  | between (characters : List Octet)
  | within (characters : List Octet) (bits : List Level)
  | ended (characters : List Octet) (reason : AssemblyEnd)
  | ignoring
  deriving DecidableEq, Repr

/-- The six line counters (R56). -/
structure LineCounters where
  sent : Nat
  lost : Nat
  aborts : Nat
  drops : Nat
  good : Nat
  bad : Nat
  deriving DecidableEq, Repr

/-- The line controller (R57). -/
structure LineControl where
  /-- The waiting frames, in the waiting order. -/
  queue : List Frame
  flight : Option Flight
  /-- The station is driving its frame in flight, from its start bit until it is sent, loses or aborts. -/
  sending : Bool
  /-- The time base count at which the frame in flight was last started (R34). -/
  startedAt : Nat
  /-- The end of the bit in which a frame was aborted, when that bit was sent dominant: it is driven to its end (R37). -/
  drivesUntil : Option Nat
  suspended : Bool
  cleanRun : Nat
  /-- The time base count at which the clash quiet timer runs out; absent while it is stopped. -/
  clashEnd : Option Nat
  counters : LineCounters
  seq : Nat
  listenOnly : Bool
  /-- The time base count of the next beacon slot. -/
  beaconDue : Option Nat
  deriving DecidableEq, Repr

/-- The line as the line controller samples it (R32, R33, R39, R41): the idle count and the stuck count; the time base count of the
latest sample that they hold; that of the latest recessive-to-dominant edge, from which the samples are timed; whether the line is
known to be recessive from that sample on, because no station drives it; whether LINE_IDLE has come since the last dominant sample,
and STUCK_DOMINANT in the dominant run, for which the counts wait at 12 and at 65 (log entry 5); and the receive assembler, fed by the
samples. -/
structure LineSamples where
  idleCount : Nat
  stuckCount : Nat
  sampledAt : Nat
  edge : Option Nat
  quiet : Bool
  idle : Bool
  stuck : Bool
  assembler : Assembler
  deriving DecidableEq, Repr

/-! ### The neighbour table and its view windows (Chapter 4) -/

/-- A view window (4.1). -/
structure ViewWindow where
  enabled : Bool
  base : Addr
  mask : Addr
  offset : Nat
  deriving DecidableEq, Repr

/-- FRESH or STALE (R70). -/
inductive Freshness where
  | fresh | stale
  deriving DecidableEq, Repr

/-- A neighbour record (R64); the two cap fields are present together. -/
structure Neighbour where
  sender : Addr
  mode : Mode
  yOut : Nat
  ambient : Option Nat
  /-- Cap level and cap remaining. -/
  cap : Option (Nat × Nat)
  activeCount : Nat
  severity : Option Severity
  overflow : Bool
  seq : Nat
  missed : Nat
  age : Nat
  freshness : Freshness
  deriving DecidableEq, Repr

/-- The neighbour table (R64, R74). -/
structure NeighbourTable where
  windows : Table ViewWindow 3
  ownSlot : Option (Fin 32)
  slots : Table (Option Neighbour) 32
  agingDue : Option Nat
  deriving DecidableEq, Repr

/-! ### The settling controller (Chapter 5) and the cap unit (Chapter 6) -/

/-- The stage record (R101). -/
structure StageRecord where
  mode : Mode
  aOwn : Option Nat
  aPool : Option Nat
  yCeil : Option Nat
  derate : Nat
  capLevel : Option Nat
  upstream : Option Nat
  downstream : Option Nat
  yTarget : Option Nat
  yOut : Nat
  deriving DecidableEq, Repr

/-- The settling controller (R103). -/
structure Settling where
  mode : Mode
  yOut : Nat
  heldCeiling : Option Nat
  holdCount : Nat
  passes : Nat
  stage : StageRecord
  passDue : Option Nat
  deriving DecidableEq, Repr

/-- The cap record (R104). -/
structure CapRecord where
  level : Nat
  blank : Bool
  immediate : Bool
  remaining : Nat
  source : Addr
  deriving DecidableEq, Repr

/-- The cap unit (R104, R113). -/
structure CapUnit where
  record : Option CapRecord
  countDue : Option Nat
  deriving DecidableEq, Repr

/-! ### The chain controllers and the ports (Chapter 7) -/

/-- The state of a chain (R117). -/
inductive ChainState where
  | off | census | idle | brightness | sweep | detail | test | down
  deriving DecidableEq, Repr

/-- The pending request set (R118), one flag per kind. -/
structure PendingSet where
  census : Bool
  brightness : Bool
  detail : Bool
  sweep : Bool
  test : Bool
  deriving DecidableEq, Repr

/-- A completed status word with its position (R128). -/
structure StatusWord where
  position : Nat
  word : BitVec 32
  deriving DecidableEq, Repr

/-- A chain controller's record (7.3), with what the operation in progress holds: the duty word it sent, the position it
named, the running bit time at which a sweep's lead bit arrived, once a word has shown it (R116), the words of the sweep
completed so far, the positions whose words entered the FIFO, whether the sweep's final bit has arrived, and whether the shift
clock is stopped by a waiting word; and the operation for which it last set its port's select outputs (R114; log entry 28). -/
structure Chain where
  state : ChainState
  pend : PendingSet
  pendingValue : Nat
  pendingPosition : Nat
  duty : Option Nat
  census : Option Nat
  echoMiss : Nat
  lastMismatch : Option Nat
  register : Option StatusWord
  fifo : List StatusWord
  bitCount : Nat
  sentValue : Nat
  sentPosition : Nat
  lead : Option Nat
  wordsDone : Nat
  entered : List Nat
  finalArrived : Bool
  stalled : Bool
  selected : Option ChainState
  sweepDue : Option Nat
  testDue : Option Nat
  retryDue : Option Nat
  deriving DecidableEq, Repr

/-- A physical port: its tile supply, its PWM line, and the on-time and the start of its PWM period (R114, R140). What
its select outputs show is formed from the operation that its chain last set them for (`State.selectOutputs`). -/
structure Port where
  supplyOn : Bool
  lineActive : Bool
  onTime : Nat
  periodStart : Option Nat
  deriving DecidableEq, Repr

/-! ### The status collector and the supply scanner (Chapter 8) -/

/-- The five readings of a tile's last handled word; they are present or absent together (R143). -/
structure Readings where
  openCount : Nat
  shortCount : Nat
  temperature : Nat
  driverSupplyOk : Bool
  tileOk : Bool
  deriving DecidableEq, Repr

/-- The reported set of a tile record (R143). -/
structure ReportedSet where
  tileOpen : Bool
  tileShort : Bool
  tileSupply : Bool
  thermalWarn : Bool
  thermalCrit : Bool
  deriving DecidableEq, Repr

/-- A tile record (R143). -/
structure TileRecord where
  marked : Bool
  readings : Option Readings
  sweepsSince : Nat
  warnClear : Nat
  reported : ReportedSet
  deriving DecidableEq, Repr

/-- The status collector (R143, R145); its outgoing request list is the part of `State.requests` that it made. -/
structure Collector where
  tiles : Table TileRecord 64
  pointer : Fin 4
  lastTake : Option Nat
  deriving DecidableEq, Repr

/-- The scanner's record of one port (8.7). -/
structure SupplyRecord where
  lowRun : Nat
  goodRun : Nat
  droopReported : Bool
  deriving DecidableEq, Repr

/-- The supply scanner (R159): the records, the ports still to convert in the scan in progress (the first of them is
converting), and the count at which the conversion in progress completes. -/
structure Scanner where
  records : Table SupplyRecord 4
  queue : List (Fin 4)
  conversionEnd : Nat
  scanDue : Option Nat
  deriving DecidableEq, Repr

/-! ### The fault table (Chapter 9) and the query responder (Chapter 10) -/

/-- ACTIVE or CLEARED (R163). -/
inductive FaultState where
  | active | cleared
  deriving DecidableEq, Repr

/-- A fault record (R163); its severity is its kind's. -/
structure FaultRecord where
  kind : FaultKind
  source : Source
  state : FaultState
  count : Nat
  detail : Option Detail
  clearedAge : Nat
  deriving DecidableEq, Repr

/-- The fault table (R163, R183): the records in table order, the overflow flag, the FAULT output, the aging interval
and the count until which a take occupies the table (R166). -/
structure FaultTable where
  records : List FaultRecord
  overflow : Bool
  output : Bool
  agingDue : Option Nat
  freeAt : Nat
  deriving DecidableEq, Repr

/-- What a request asks of the fault table (R166). -/
inductive FaultAction where
  | raise (detail : Option Detail)
  | withdraw
  deriving DecidableEq, Repr

/-- A request that the fault table has not yet taken, with the time base count at which it was made (R166). -/
structure Request where
  madeAt : Nat
  kind : FaultKind
  source : Source
  action : FaultAction
  deriving DecidableEq, Repr

/-- The state of the deferred record (R193). -/
inductive DeferredState where
  | waiting
  | ready (words : DetailWords)
  | failed
  deriving DecidableEq, Repr

/-- The deferred record (R193). -/
structure Deferred where
  asker : Addr
  tile : Nat
  state : DeferredState
  readyAge : Nat
  deriving DecidableEq, Repr

/-- The query responder (R193, R198). -/
structure Responder where
  deferred : Option Deferred
  agingDue : Option Nat
  deriving DecidableEq, Repr

/-! ### The whole -/

/-- The state of the part and the commands that wait for it, first in, first out. -/
structure State where
  /-- The time base, in microseconds since reset ended (R1). -/
  timeBase : Nat
  /-- The shared PWM count, as it stands at the present half of a microsecond (R2, R140). -/
  pwmCount : Nat
  startUp : StartUp
  sensors : Table SensorChannel 2
  line : LineControl
  /-- The line controller's samples of the line. -/
  wire : LineSamples
  neighbours : NeighbourTable
  settling : Settling
  cap : CapUnit
  chains : Table Chain 4
  ports : Table Port 4
  collector : Collector
  scanner : Scanner
  faults : FaultTable
  /-- The requests waiting at their requesters, in the order they were made. -/
  requests : List Request
  responder : Responder
  pending : List Instr
  deriving DecidableEq, Repr

/-- The reasons a command can stop the part with a fault: there is none. The manual gives every command its effect, and a
command whose moment has not come leaves the state as it is (log entry 1), so no constructor is needed. Safe. -/
inductive Fault where
  deriving DecidableEq, Repr

/-- The reasons the model refuses a command. -/
inductive Refusal where
  /-- Raised by an arm of `exec` whose command has no meaning yet; no arm of this model raises it. Safe. -/
  | notModelled (mnemonic : String)
  deriving DecidableEq, Repr

/-! ### Reset values, block by block -/

/-- R29: no edge of a window. -/
def GateWindow.empty : GateWindow := ⟨0, none, none⟩

/-- R29: a channel after reset. -/
def SensorChannel.reset : SensorChannel :=
  { window := GateWindow.empty, early := [], latest := none, lastCode := none, silent := 0, state := .invalid, windowEnd := none }

/-- R56, R57: the counters after reset. -/
def LineCounters.zero : LineCounters := ⟨0, 0, 0, 0, 0, 0⟩

/-- R57: the line controller after reset. -/
def LineControl.reset : LineControl :=
  { queue := [], flight := none, sending := false, startedAt := 0, drivesUntil := none,
    suspended := false, cleanRun := 0, clashEnd := none, counters := LineCounters.zero, seq := 0,
    listenOnly := false, beaconDue := none }

/-- R41, R57: the counts of samples after reset, none taken and no edge seen, with the assembler empty. -/
def LineSamples.reset : LineSamples :=
  { idleCount := 0, stuckCount := 0, sampledAt := 0, edge := none, quiet := false, idle := false, stuck := false
    assembler := .empty }

/-- R74: every window disabled. The base, mask and offset of a disabled window, after reset and of the default windows 1 and 2
(R58), are 0: DESIGN CHOICE (log entry 26), the manual gives none and nothing reads them. -/
def ViewWindow.disabled : ViewWindow := ⟨false, 0, 0, 0⟩

/-- R74: the neighbour table after reset. -/
def NeighbourTable.reset : NeighbourTable :=
  { windows := Table.replicate 3 ViewWindow.disabled, ownSlot := none, slots := Table.replicate 32 none,
    agingDue := none }

/-- R103: the stage record after reset, with the given Y_out. -/
def StageRecord.starting (yOut : Nat) : StageRecord :=
  { mode := .starting, aOwn := none, aPool := none, yCeil := none, derate := 0, capLevel := none,
    upstream := none, downstream := none, yTarget := none, yOut := yOut }

/-- R103: the settling controller after reset. -/
def Settling.reset : Settling :=
  { mode := .starting, yOut := 0, heldCeiling := none, holdCount := 0, passes := 0,
    stage := StageRecord.starting 0, passDue := none }

/-- R142: an empty pending request set. -/
def PendingSet.empty : PendingSet := ⟨false, false, false, false, false⟩

/-- R142: a chain after reset. -/
def Chain.reset : Chain :=
  { state := .off, pend := PendingSet.empty, pendingValue := 0, pendingPosition := 0, duty := none, census := none,
    echoMiss := 0, lastMismatch := none, register := none, fifo := [], bitCount := 0, sentValue := 0,
    sentPosition := 0, lead := none, wordsDone := 0, entered := [], finalArrived := false, stalled := false, selected := none,
    sweepDue := none, testDue := none, retryDue := none }

/-- R142, R211: a port after reset. -/
def Port.reset : Port := { supplyOn := false, lineActive := false, onTime := 0, periodStart := none }

/-- No condition reported. -/
def ReportedSet.empty : ReportedSet := ⟨false, false, false, false, false⟩

/-- R158: a tile record after reset. -/
def TileRecord.reset : TileRecord :=
  { marked := false, readings := none, sweepsSince := 0, warnClear := 0, reported := ReportedSet.empty }

/-- R158: the collector after reset. -/
def Collector.reset : Collector :=
  { tiles := Table.replicate 64 TileRecord.reset, pointer := 0, lastTake := none }

/-- R162: the scanner after reset. -/
def Scanner.reset : Scanner :=
  { records := Table.replicate 4 ⟨0, 0, false⟩, queue := [], conversionEnd := 0, scanDue := none }

/-- R183: the fault table after reset. -/
def FaultTable.reset : FaultTable :=
  { records := [], overflow := false, output := false, agingDue := none, freeAt := 0 }

/-- R211: the start-up unit in RESET_HELD. -/
def StartUp.resetHeld (sources : ResetSources) (cause : ResetSource) : StartUp :=
  { phase := .resetHeld, sources := sources, startCause := cause, address := none, attempts := 0, attemptBegan := none,
    answered := none, octets := [], applied := none, waitEnd := none }

/-- The part held in reset, with the sources that hold it, the start cause and the commands that wait: what every reset
leaves, whatever its cause (R199, R211 and each block's own reset rule). -/
def State.held (sources : ResetSources) (cause : ResetSource) (pending : List Instr) : State :=
  { timeBase := 0
    pwmCount := 0
    startUp := StartUp.resetHeld sources cause
    sensors := Table.replicate 2 SensorChannel.reset
    line := LineControl.reset
    wire := LineSamples.reset
    neighbours := NeighbourTable.reset
    settling := Settling.reset
    cap := ⟨none, none⟩
    chains := Table.replicate 4 Chain.reset
    ports := Table.replicate 4 Port.reset
    collector := Collector.reset
    scanner := Scanner.reset
    faults := FaultTable.reset
    requests := []
    responder := ⟨none, none⟩
    pending := pending }

/-- The machine right after its reset: held in a reset that the power-on detector began. DEDUCED (log entry 3, unsafe):
R199 sets the start cause from the asserting source, and a part that has just been powered has POWER. -/
def State.reset : State := State.held ⟨true, false, false⟩ .power []

end Sys2Proof.Machine
end

