-- ==== Sys2Proof/Machine/Codes.lean ====
section
/-! DEFINITION. The arithmetic of Chapter 1 and of the curve: LOG32, the sensor conversion, the duty conversion, trims,
the pool's median and the interpolation of the curve. Every computation is exact integer arithmetic (R15). -/

namespace Sys2Proof.Machine

open Sys2Proof

/-- T[m] of R10: 32nds of the base-2 logarithm of 1 + m/32, rounded down. -/
def logFraction : List Nat :=
  [0, 1, 2, 4, 5, 6, 7, 9, 10, 11, 12, 13, 14, 15, 16, 17] ++
  [18, 19, 20, 21, 22, 23, 24, 25, 25, 26, 27, 28, 29, 29, 30, 31]

/-- m of R10: the five bits after the leading one at position `e`. -/
def logIndex (e x : Nat) : Nat :=
  if e ≤ 5 then x * 2 ^ (5 - e) - 32 else x / 2 ^ (e - 5) - 32

/-- LOG32 (R10). -/
def log32 (x : Nat) : Nat :=
  32 * Nat.log2 x + logFraction.getD (logIndex (Nat.log2 x) x) 0

/-- P of R11: the mean period of a window of `n` edges that span `t` µs. -/
def meanPeriod (n t : Nat) : Nat := t / (n - 1)

/-- P_eff of R11. -/
def effectivePeriod (p : Nat) : Nat := max p 16

/-- The ambient code of a sensor with constant `c` and mean period `p` (R12). -/
def ambientCode (c p : Nat) : Nat := clampInt 671 ((c : Int) - (log32 (effectivePeriod p) : Int))

/-- E[r] of R13. -/
def dutyFraction : List Nat :=
  [65535, 64132, 62757, 61413, 60097, 58809, 57549, 56316] ++
  [55109, 53928, 52773, 51642, 50535, 49452, 48393, 47356] ++
  [46341, 45348, 44376, 43425, 42495, 41584, 40693, 39821] ++
  [38968, 38133, 37316, 36516, 35734, 34968, 34219, 33486]

/-- The duty word of chain luminance `yc` (R13). -/
def dutyWord (yPeak yc : Nat) : Nat :=
  dutyFraction.getD ((yPeak - yc) % 32) 0 / 2 ^ ((yPeak - yc) / 32)

/-- The PWM on-time of a duty word, in PWM counts (R8). -/
def onTimeOf (duty : Nat) : Nat := duty / 16

/-- Y_c of R9: the board's luminance with a chain's trim. -/
def chainLuminance (yPeak yOut : Nat) (trim : Int) : Nat := clampInt yPeak ((yOut : Int) + trim)

/-- A sign-magnitude trim of four bits (R9): bit 3 sign, bits 2..0 magnitude. -/
def trimOf (nibble : BitVec 4) : Int :=
  if nibble.getLsbD 3 then -((nibble.extractLsb' 0 3).toNat : Int) else ((nibble.extractLsb' 0 3).toNat : Int)

/-- A_pool of R80: the member at index floor((n − 1)/2) of the list in ascending order. -/
def lowerMedian (pool : List Nat) : Option Nat :=
  (pool.insertionSort (· ≤ ·))[(pool.length - 1) / 2]?

/-- Y_ceil of R81 for an ambient code, over the breakpoints that remain from the segment under test on. -/
def ceilingAt : List (Nat × Nat) → Nat → Nat
  | [], _ => 0
  | [(_, y)], _ => y
  | (a, y) :: (a', y') :: rest, pool =>
    if pool ≤ a then y
    else if pool < a' then y + (pool - a) * (y' - y) / (a' - a)
    else ceilingAt ((a', y') :: rest) pool

/-- The built-in curve (R82). -/
def builtInCurve : List (Nat × Nat) :=
  [(0, 224), (128, 240), (234, 256), (447, 320), (553, 384), (659, 409)]

/-- The line's bit time in microseconds (R5). -/
def bitTimeOf : LineRate → Nat
  | .kbit31 => 32
  | .kbit62 => 16
  | .kbit125 => 8
  | .kbit250 => 4

/-- The bits of the TEST pattern that a seven-stage register sends from given stages (R132): stage 7 is sent, then the
stages shift one place toward it, and stage 1 takes stage 7 exclusive-or stage 6. Bit k − 1 of the register is stage k. -/
def patternFrom : Nat → BitVec 7 → List Bool
  | 0, _ => []
  | n + 1, stages =>
    stages.getLsbD 6 ::
      patternFrom n ((stages <<< 1) ||| (if stages.getLsbD 6 ^^ stages.getLsbD 5 then 1#7 else 0#7))

/-- The 254 pattern bits of a TEST (R132). -/
def testPattern : List Bool := patternFrom 254 0x7F#7

/-- The returned bits of a TEST in the order they arrived. -/
def returnedBits (returned : BitVec 254) : List Bool := (List.range 254).map fun i => returned.getMsbD i

/-- The mismatch count of a TEST (R132). -/
def mismatchCount (returned : BitVec 254) : Nat :=
  (List.zipWith (fun a b => a ^^ b) testPattern (returnedBits returned)).count true

end Sys2Proof.Machine
end

