-- ==== Sys2Proof/Machine/Operands.lean ====
section
/-! DEFINITION. The forms in which values reach the part and leave it: octets and multi-octet numbers, the codes of
Chapter 12, the frame with its key and check (R42, R212), the payloads of the five frame kinds (R213), and the words of
the tile chains (R215). -/

namespace Sys2Proof.Machine

open Sys2Proof

/-! ### Octets and numbers -/

/-- The octet of a number's low eight bits. -/
def octet (n : Nat) : Octet := BitVec.ofNat 8 n

/-- A field of two octets, most significant first (Chapter 12). -/
def twoOctets (n : Nat) : List Octet := [octet (n / 256), octet n]

/-- A word of four octets, most significant first. -/
def fourOctets (w : BitVec 32) : List Octet :=
  [w.extractLsb' 24 8, w.extractLsb' 16 8, w.extractLsb' 8 8, w.extractLsb' 0 8]

/-- The octet at an offset, 0 beyond the end. -/
def octetAt (p : List Octet) (offset : Nat) : Octet := p.getD offset 0

/-- The field of two octets at an offset. -/
def wordAt (p : List Octet) (offset : Nat) : BitVec 16 := octetAt p offset ++ octetAt p (offset + 1)

/-- The sum of octets, mod 256 (R42, R203). -/
def octetSum (p : List Octet) : Nat := (p.map BitVec.toNat).sum % 256

/-! ### Codes (R212, 9.2) -/

def Urgency.code : Urgency → Nat
  | .alarm => 0
  | .order => 1
  | .notice => 2
  | .routine => 3

def FrameKind.code : FrameKind → Nat
  | .beacon => 1
  | .faultNotice => 2
  | .cap => 3
  | .query => 4
  | .reply => 5

def Mode.code : Mode → Nat
  | .starting => 0
  | .regulating => 1
  | .held => 2
  | .dark => 3

/-- The mode a code names; none for a code that names none of the four (R68). -/
def Mode.ofCode : Nat → Option Mode
  | 0 => some .starting
  | 1 => some .regulating
  | 2 => some .held
  | 3 => some .dark
  | _ => none

def Severity.code : Severity → Nat
  | .minor => 1
  | .major => 2
  | .critical => 3

/-- The code of an optional severity: 0 for none. -/
def severityCode : Option Severity → Nat
  | none => 0
  | some v => v.code

/-- The severity a code names. -/
def Severity.ofCode : Nat → Option Severity
  | 1 => some .minor
  | 2 => some .major
  | 3 => some .critical
  | _ => none

def startCauseCode : ResetSource → Nat
  | .power => 0
  | .lowVoltage => 1
  | .pin => 2

def ChainState.code : ChainState → Nat
  | .off => 0
  | .census => 1
  | .idle => 2
  | .brightness => 3
  | .sweep => 4
  | .detail => 5
  | .test => 6
  | .down => 7

/-- The kind codes of 9.2. -/
def faultCode : FaultKind → Nat
  | .sensorSilent => 0x01
  | .chainDown => 0x10
  | .chainTimeout => 0x11
  | .chainIntegrity => 0x12
  | .tileCount => 0x13
  | .tileOpen => 0x20
  | .tileShort => 0x21
  | .tileSupply => 0x22
  | .thermalWarn => 0x23
  | .thermalCrit => 0x24
  | .supplyDroop => 0x30
  | .lineError => 0x40
  | .lineStuck => 0x41
  | .addressClash => 0x42
  | .configDefaulted => 0x50

/-- The severities of 9.2. -/
def faultSeverity : FaultKind → Severity
  | .sensorSilent => .minor
  | .chainDown => .major
  | .chainTimeout => .major
  | .chainIntegrity => .major
  | .tileCount => .major
  | .tileOpen => .minor
  | .tileShort => .major
  | .tileSupply => .major
  | .thermalWarn => .major
  | .thermalCrit => .critical
  | .supplyDroop => .major
  | .lineError => .minor
  | .lineStuck => .major
  | .addressClash => .major
  | .configDefaulted => .minor

/-! ### The frame (R35, R36, R42, R212) -/

/-- A contention key: urgency, then sender address, then kind, most significant bit first (R36, R212). -/
def keyOf (urgency : BitVec 2) (sender : Addr) (kind : BitVec 4) : BitVec 16 := urgency ++ sender ++ kind

/-- A frame with this key and payload but for its check character. -/
def frameBody (key : BitVec 16) (payload : List Octet) : List Octet :=
  [key.extractLsb' 8 8, key.extractLsb' 0 8, octet payload.length] ++ payload

/-- The check character: 255 less the sum of the other octets mod 256 (R42). -/
def checkOf (key : BitVec 16) (payload : List Octet) : Octet := octet (255 - octetSum (frameBody key payload))

/-- The characters of a good frame with this key and payload (R35, R42). -/
def frameOctets (key : BitVec 16) (payload : List Octet) : List Octet := frameBody key payload ++ [checkOf key payload]

def Frame.key (f : Frame) : BitVec 16 :=
  keyOf (BitVec.ofNat 2 f.urgency.code) f.sender (BitVec.ofNat 4 f.kind.code)

/-- The characters of a frame in the order they are sent (R35). -/
def Frame.octets (f : Frame) : List Octet := frameOctets f.key f.payload

/-! ### Levels and characters (R32) -/

/-- A 0 is sent dominant and a 1 recessive (R32). -/
def levelOf (bit : Bool) : Level := if bit then .recessive else .dominant

def Level.opposite : Level → Level
  | .dominant => .recessive
  | .recessive => .dominant

/-- The levels of a character with the given stop level: a dominant start bit, eight data bits, most significant first, and the
stop bit (R32). -/
def characterLevels (o : Octet) (stop : Level) : List Level :=
  .dominant :: (List.range 8).map (fun i => levelOf (o.getMsbD i)) ++ [stop]

/-- The levels of characters that follow one another back to back (R32, R35). -/
def charactersLevels (octets : List Octet) : List Level := octets.flatMap fun o => characterLevels o .recessive

/-- The levels of a frame as it is sent (R32, R35). -/
def Frame.levels (f : Frame) : List Level := charactersLevels f.octets

/-- Microseconds from a frame's start edge to the middle of its check character's stop bit (R32, R35). -/
def Frame.sendTime (f : Frame) (bitTime : Nat) : Nat := 10 * (f.payload.length + 4) * bitTime - bitTime / 2

/-! ### Payloads (R213) -/

/-- 0x3FF for an absent ambient or luminance code (R212). -/
def codeOrAbsent (c : Option Nat) : Nat := c.getD 0x3FF

/-- The octets of a BEACON. -/
def beaconOctets (b : BeaconWire) : List Octet :=
  [b.mode] ++ twoOctets b.yOut.toNat ++ twoOctets b.ambient.toNat ++ twoOctets b.capLevel.toNat ++
    twoOctets b.capRemaining.toNat ++ [b.activeCount, b.summary, b.seq]

/-- A BEACON's fields; none when the payload is shorter than the fixed part of 12 (R43). -/
def beaconOf (p : List Octet) : Option BeaconWire :=
  if p.length < 12 then none
  else some
    { mode := octetAt p 0, yOut := wordAt p 1, ambient := wordAt p 3, capLevel := wordAt p 5,
      capRemaining := wordAt p 7, activeCount := octetAt p 9, summary := octetAt p 10, seq := octetAt p 11 }

/-- A CAP's fields and duration; none when the payload is shorter than the fixed part of 9 (R43). -/
def capOf (p : List Octet) : Option (CapWire × BitVec 16) :=
  if p.length < 9 then none
  else some ({ base := wordAt p 0, mask := wordAt p 2, flags := octetAt p 4, level := wordAt p 5 }, wordAt p 7)

/-- The nine octets of a CAP's fixed part. -/
def capOctets (c : CapWire) (duration : BitVec 16) : List Octet :=
  twoOctets c.base.toNat ++ twoOctets c.mask.toNat ++ [c.flags] ++ twoOctets c.level.toNat ++ twoOctets duration.toNat

/-- A QUERY as the line controller hands it on (R184). -/
structure Query where
  asker : Addr
  target : BitVec 16
  item : Octet
  argument : Octet
  tag : Octet
  deriving DecidableEq, Repr

/-- The five octets of a QUERY's fixed part. -/
def queryOctets (q : Query) : List Octet := twoOctets q.target.toNat ++ [q.item, q.argument, q.tag]

/-- The characters of a QUERY of its fixed part (R42, R49). -/
def Query.frameOctets (q : Query) : List Octet := Frame.octets ⟨.order, q.asker, .query, queryOctets q⟩

/-- A QUERY's fields; none when the payload is shorter than the fixed part of 5 (R43). -/
def queryOf (asker : Addr) (p : List Octet) : Option Query :=
  if p.length < 5 then none
  else some { asker := asker, target := wordAt p 0, item := octetAt p 2, argument := octetAt p 3, tag := octetAt p 4 }

/-- Bits 1..0 highest severity, bit 7 overflow flag (R213, offset 10 of a BEACON). -/
def summaryOctet (severity : Option Severity) (overflow : Bool) : Octet :=
  octet (severityCode severity + if overflow then 128 else 0)

/-- The events of a FAULT NOTICE (R47). -/
inductive NoticeEvent where
  | raised | cleared
  deriving DecidableEq, Repr

def NoticeEvent.code : NoticeEvent → Nat
  | .raised => 0
  | .cleared => 1

/-- The payload of a FAULT NOTICE: length 5, or 7 with the detail (R213). -/
def noticePayload (event : NoticeEvent) (r : FaultRecord) : List Octet :=
  [octet event.code, octet (faultCode r.kind), octet r.source.toNat, octet (faultSeverity r.kind).code, octet r.count] ++
    match r.detail with
    | none => []
    | some d => twoOctets d.toNat

/-- The urgency of a FAULT NOTICE (R47, R178). -/
def noticeUrgency (event : NoticeEvent) (kind : FaultKind) : Urgency :=
  match event, faultSeverity kind with
  | .raised, .critical => .alarm
  | _, _ => .notice

/-- The reply statuses (R186). -/
inductive ReplyStatus where
  | ok | deferred | busy | badItem | unavailable
  deriving DecidableEq, Repr

def ReplyStatus.code : ReplyStatus → Nat
  | .ok => 0
  | .deferred => 1
  | .busy => 2
  | .badItem => 3
  | .unavailable => 4

/-- The payload of a REPLY to a query (R185, R213). -/
def replyPayload (q : Query) (status : ReplyStatus) (data : List Octet) : List Octet :=
  twoOctets q.asker.toNat ++ [q.tag, q.item, q.argument, octet status.code] ++ data

/-! ### Words of the tile chains (R215) -/

/-- The brightness word: the duty word in bits 15..0 (R125). -/
def brightnessWord (duty : Nat) : BitVec 32 := BitVec.ofNat 32 (duty % 65536)

/-- The select word: the tile position in bits 3..0 (R130). -/
def selectWord (position : Nat) : BitVec 32 := BitVec.ofNat 32 (position % 16)

/-- A tile word's bits in the order they are sent, most significant first (R116). -/
def wordBits (w : BitVec 32) : List Bool := (List.range 32).map w.getMsbD

/-- The bits that the operation in progress sends behind its lead bit (R116, R125, R130, R132). -/
def Chain.outgoing (ch : Chain) : List Bool :=
  match ch.state with
  | .brightness => wordBits (brightnessWord ch.sentValue)
  | .detail => wordBits (selectWord ch.sentPosition)
  | .test => testPattern
  | .census => []
  | .sweep => []
  | .off => []
  | .idle => []
  | .down => []

/-- A chain that runs an operation (R117). -/
def operating (state : ChainState) : Bool :=
  state = .census || state = .brightness || state = .sweep || state = .detail || state = .test

/-- The bit that a chain's operation sends at a running bit time: the lead bit of 1 at bit time 0, its outgoing bits from bit time
1 on, and 0 after them (R116). -/
def Chain.sends (ch : Chain) (k : Nat) : Bool :=
  operating ch.state && match k with
    | 0 => true
    | k + 1 => ch.outgoing.getD k false

/-- The five readings of a status word (R127). -/
def readingsOf (w : BitVec 32) : Readings :=
  { openCount := (w.extractLsb' 28 4).toNat
    shortCount := (w.extractLsb' 24 4).toNat
    temperature := (w.extractLsb' 16 8).toNat
    driverSupplyOk := w.getLsbD 15
    tileOk := w.getLsbD 14 }

end Sys2Proof.Machine
end

