-- ==== Sys2Proof/Machine/Options.lean ====
section
/-! DEFINITION. The option block: its layout (R216), the check (R203), the defaults and the corrections of each field
group (R204 to R208), the view windows' translation and their tests (R58 to R62), and the CONFIG_DEFAULTED details that the
groups report. -/

namespace Sys2Proof.Machine

open Sys2Proof

/-- A one-octet field of the block, as an unsigned number (R216). -/
def field (b : List Octet) (offset : Nat) : Nat := (octetAt b offset).toNat

/-- A two-octet field of the block. -/
def fieldTwo (b : List Octet) (offset : Nat) : Nat := (wordAt b offset).toNat

/-- A block is sound when its 91 octets sum to 255 mod 256 (R203). -/
def blockSound (b : List Octet) : Bool := b.length = Config.blockOctets && octetSum b = 255

/-- How many fields were changed: the pairs of read value and corrected value that differ (11.6). -/
def changedFields (pairs : List (Nat × Nat)) : Nat := pairs.countP fun p => p.1 ≠ p.2

/-- A code of a field that has codes 0..3; any other is replaced by the default's (R204, R208). -/
def codeOrDefault (default code : Nat) : Nat := if code ≤ 3 then code else default

/-- The line rate a code names (R204, R216). -/
def lineRateOf : Nat → LineRate
  | 0 => .kbit31
  | 2 => .kbit125
  | 3 => .kbit250
  | _ => .kbit62

/-- The gate length a code names, in µs (R208, R216). -/
def gateOf : Nat → Nat
  | 0 => 50000
  | 2 => 200000
  | 3 => 400000
  | _ => 100000

/-- The droop level a code names (R208, R216). -/
def droopOf : Nat → Nat
  | 0 => 27
  | 1 => 28
  | 3 => 30
  | _ => 29

/-! ### Group 1: settling and line (R204) -/

def rateCode (b : List Octet) : Nat := codeOrDefault 1 (field b 0)
def ownWeightOf (b : List Octet) : Nat := clamp 1 3 (field b 1)
def radiusOf (b : List Octet) : Nat := clamp 1 8 (field b 2)
def gradientOf (b : List Octet) : Nat := clamp 8 128 (field b 3)
def slewUpOf (b : List Octet) : Nat := clamp 1 16 (field b 4)
def slewDownOf (b : List Octet) : Nat := clamp 1 64 (field b 5)
def yPeakOf (b : List Octet) : Nat := clamp 160 511 (fieldTwo b 6)
def yStartOf (b : List Octet) : Nat := clamp 0 (yPeakOf b) (fieldTwo b 8)
def yFallbackOf (b : List Octet) : Nat := clamp 0 (yPeakOf b) (fieldTwo b 10)
def holdOf (b : List Octet) : Nat := clamp 1 255 (field b 12)
def staleOf (b : List Octet) : Nat := clamp 2 60 (field b 13)
def evictOf (b : List Octet) : Nat := clamp (staleOf b + 1) 255 (field b 14)

/-- The fields of group 1 that the correction changed. -/
def groupOneChanges (b : List Octet) : Nat :=
  changedFields
    [(field b 0, rateCode b), (field b 1, ownWeightOf b), (field b 2, radiusOf b), (field b 3, gradientOf b),
     (field b 4, slewUpOf b), (field b 5, slewDownOf b), (fieldTwo b 6, yPeakOf b), (fieldTwo b 8, yStartOf b),
     (fieldTwo b 10, yFallbackOf b), (field b 12, holdOf b), (field b 13, staleOf b), (field b 14, evictOf b)]

/-! ### Groups 2 to 4: the view windows (R58 to R62, R205) -/

/-- The free part of a window: NOT mask, as a number (4.1). -/
def freePart (w : ViewWindow) : Nat := (~~~w.mask).toNat

/-- The last slot of a window's slot range (4.1). -/
def slotEnd (w : ViewWindow) : Nat := w.offset + freePart w

/-- Two slot ranges share at least one slot (R61). -/
def rangesOverlap (v w : ViewWindow) : Bool := v.offset ≤ slotEnd w && w.offset ≤ slotEnd v

/-- An address matches an enabled window (R59). -/
def windowMatches (w : ViewWindow) (a : Addr) : Bool := w.enabled && (a &&& w.mask) == (w.base &&& w.mask)

/-- The slot a window gives an address (R59). -/
def windowSlot (w : ViewWindow) (a : Addr) : Nat := w.offset + (a &&& ~~~w.mask).toNat

/-- A slot number as a place of the table; none above 31, which R60 keeps from arising. -/
def slotOf (n : Nat) : Option (Fin 32) := if h : n < 32 then some ⟨n, h⟩ else none

/-- The slot of an address: the first enabled window that matches translates it (R59). -/
def translate (ws : Table ViewWindow 3) (a : Addr) : Option (Fin 32) :=
  match ws.cells.find? fun w => windowMatches w a with
  | some w => slotOf (windowSlot w a)
  | none => none

/-- The tests of R60 and R61 on a window, against the earlier windows as they stand: the detail of the failing test. -/
def windowFault (earlier : List ViewWindow) (w : ViewWindow) : Option Nat :=
  if !w.enabled then none
  else if slotEnd w > 31 then some 1
  else if earlier.any fun v => v.enabled && rangesOverlap v w then some 2
  else none

/-- A window after its tests: disabled whole when one failed. -/
def testedWindow (earlier : List ViewWindow) (w : ViewWindow) : ViewWindow :=
  { w with enabled := w.enabled && (windowFault earlier w).isNone }

/-- The three windows after the tests, in the order 0, 1, 2 (R58). -/
def testedWindows (w0 w1 w2 : ViewWindow) : Table ViewWindow 3 :=
  let v0 := testedWindow [] w0
  let v1 := testedWindow [v0] w1
  let v2 := testedWindow [v0, v1] w2
  ⟨[v0, v1, v2], rfl⟩

/-- The raise of a group whose test failed, with the detail of the test: none when none failed. -/
def faultRaise (group : Nat) (fault : Option Nat) : List (Nat × Nat) := (fault.map fun d => (group, d)).toList

/-- The raises of R60 and R61 on the windows 0, 1 and 2, which are the groups 2, 3 and 4: field group and detail (R205). -/
def windowRaises (w0 w1 w2 : ViewWindow) : List (Nat × Nat) :=
  let v0 := testedWindow [] w0
  let v1 := testedWindow [v0] w1
  faultRaise 2 (windowFault [] w0) ++ faultRaise 3 (windowFault [v0] w1) ++ faultRaise 4 (windowFault [v0, v1] w2)

/-- Window w of the block (R205, R216). -/
def blockWindow (b : List Octet) (w : Nat) : ViewWindow :=
  { enabled := (octetAt b (15 + 5 * w)).getLsbD 7
    base := (wordAt b (16 + 5 * w)).setWidth 10
    mask := (wordAt b (18 + 5 * w)).setWidth 10
    offset := ((octetAt b (15 + 5 * w)).extractLsb' 0 5).toNat }

/-- Window 0 of the defaults (R58). -/
def defaultWindow (own : Addr) : ViewWindow := { enabled := true, base := own, mask := 0x3F0, offset := 0 }

/-! ### Group 5: the curve (R206) -/

/-- Breakpoints 0..7 of the block, as read. -/
def blockCurve (b : List Octet) : List (Nat × Nat) :=
  (List.range 8).map fun k => (fieldTwo b (31 + 4 * k), fieldTwo b (33 + 4 * k))

/-- A list that rises strictly, or does not fall. -/
def rising (strict : Bool) : List Nat → Bool
  | x :: y :: rest => (if strict then x < y else x ≤ y) && rising strict (y :: rest)
  | _ => true

/-- The tests of R206 in order: the number of the first that fails. -/
def curveFault (count : Nat) (points : List (Nat × Nat)) : Option Nat :=
  let used := points.take count
  if count < 2 || count > 8 then some 1
  else if used.any fun p => p.1 > 671 then some 2
  else if used.any fun p => p.2 > 511 then some 3
  else if !rising true (used.map Prod.fst) then some 4
  else if !rising false (used.map Prod.snd) then some 5
  else none

/-- The curve of a sound block: as read, or the built-in curve when a test fails. -/
def curveOf (b : List Octet) : List (Nat × Nat) :=
  match curveFault (field b 30) (blockCurve b) with
  | some _ => builtInCurve
  | none => (blockCurve b).take (field b 30)

/-! ### Group 6: the chains (R207) -/

/-- The four counts as read, cut so that the running total stays within 64. -/
def cutToTotal : Nat → List Nat → List Nat
  | _, [] => []
  | total, n :: rest =>
    if total + n > 64 then (64 - total) :: rest.map fun _ => 0 else n :: cutToTotal (total + n) rest

def readCounts (b : List Octet) : List Nat := [field b 63, field b 64, field b 65, field b 66]

/-- The final counts: cut to a total of 64, then each at most 16. -/
def finalCounts (b : List Octet) : List Nat := (cutToTotal 0 (readCounts b)).map fun n => min n 16

def tileCountsOf (b : List Octet) : Table Nat 4 := Table.tabulate 4 fun c => (finalCounts b).getD c 0

/-- The crossbar entry of a chain: bits 2c + 1..2c of octet 67 (R216). -/
def crossbarEntry (b : List Octet) (c : Fin 4) : Fin 4 := ((octetAt b 67).extractLsb' (2 * c.val) 2).toFin

/-- A crossbar is valid when the used chains are given distinct ports (R115). -/
def crossbarValid (counts : Table Nat 4) (entry : Fin 4 → Fin 4) : Bool :=
  (List.finRange 4).all fun c => (List.finRange 4).all fun d =>
    c = d || counts.get c = 0 || counts.get d = 0 || entry c ≠ entry d

def identityCrossbar : Table (Fin 4) 4 := Table.tabulate 4 id

def crossbarOf (b : List Octet) : Table (Fin 4) 4 :=
  if crossbarValid (tileCountsOf b) (crossbarEntry b) then Table.tabulate 4 (crossbarEntry b) else identityCrossbar

/-- The trim of a chain: chain 0 in bits 7..4 of octet 68, chain 1 in bits 3..0, chains 2 and 3 likewise in 69. -/
def trimField (b : List Octet) (c : Fin 4) : BitVec 4 :=
  (octetAt b (68 + c.val / 2)).extractLsb' (if c.val % 2 = 0 then 4 else 0) 4

def sweepOf (b : List Octet) : Nat := max 1 (field b 70)
def testOf (b : List Octet) : Nat := max 1 (field b 71)

/-- The fields of group 6 that the correction changed. -/
def groupSixChanges (b : List Octet) : Nat :=
  changedFields ((readCounts b).zip (finalCounts b)) +
    (if crossbarValid (tileCountsOf b) (crossbarEntry b) then 0 else 1) +
    changedFields [(field b 70, sweepOf b), (field b 71, testOf b)]

/-! ### Group 7: sensors and supply (R208) -/

def sensorCountOf (b : List Octet) : Nat := min (field b 73) 2
def constantOf (b : List Octet) (s : Nat) : Nat := min (fieldTwo b (74 + 2 * s)) 1023
def gateCode (b : List Octet) : Nat := codeOrDefault 1 (field b 78)
def nominalOf (b : List Octet) (p : Nat) : Nat := min (fieldTwo b (79 + 2 * p)) 1023
def droopCode (b : List Octet) : Nat := codeOrDefault 2 (field b 87)

/-- The fields of group 7 that the correction changed. -/
def groupSevenChanges (b : List Octet) : Nat :=
  changedFields
    [(field b 73, sensorCountOf b), (fieldTwo b 74, constantOf b 0), (fieldTwo b 76, constantOf b 1),
     (field b 78, gateCode b), (fieldTwo b 79, nominalOf b 0), (fieldTwo b 81, nominalOf b 1),
     (fieldTwo b 83, nominalOf b 2), (fieldTwo b 85, nominalOf b 3), (field b 87, droopCode b)]

/-! ### The values applied and the raises -/

/-- The values of a sound block, corrected (R204 to R208). -/
def blockOptions (b : List Octet) : Options :=
  { lineRate := lineRateOf (rateCode b)
    ownWeight := ownWeightOf b
    radius := radiusOf b
    gradient := gradientOf b
    slewUp := slewUpOf b
    slewDown := slewDownOf b
    yPeak := yPeakOf b
    yStart := yStartOf b
    yFallback := yFallbackOf b
    holdSeconds := holdOf b
    staleSeconds := staleOf b
    evictSeconds := evictOf b
    curve := curveOf b
    tileCounts := tileCountsOf b
    crossbar := crossbarOf b
    trims := Table.tabulate 4 fun c => trimOf (trimField b c)
    sweepSeconds := sweepOf b
    testSeconds := testOf b
    testThreshold := field b 72
    sensorCount := sensorCountOf b
    sensorConstants := Table.tabulate 2 fun s => constantOf b s
    gate := gateOf (gateCode b)
    nominals := Table.tabulate 4 fun p => nominalOf b p
    droopLevel := droopOf (droopCode b)
    warn := field b 88
    crit := field b 89 }

/-- The defaults (the field tables of 11.6). -/
def defaultOptions : Options :=
  { lineRate := .kbit62
    ownWeight := 2
    radius := 2
    gradient := 48
    slewUp := 2
    slewDown := 8
    yPeak := 416
    yStart := 288
    yFallback := 256
    holdSeconds := 60
    staleSeconds := 3
    evictSeconds := 30
    curve := builtInCurve
    tileCounts := Table.tabulate 4 fun c => if c = 0 then 16 else 0
    crossbar := identityCrossbar
    trims := Table.replicate 4 0
    sweepSeconds := 2
    testSeconds := 60
    testThreshold := 4
    sensorCount := 1
    sensorConstants := Table.replicate 2 659
    gate := 100000
    nominals := Table.replicate 4 0
    droopLevel := 29
    warn := 70
    crit := 85 }

/-- What READ_OUTCOME applies: the values, the windows, and the CONFIG_DEFAULTED raises in the group order in which they are made,
each a field group and a detail (R209). -/
structure Applied where
  options : Options
  windows : Table ViewWindow 3
  ownSlot : Option (Fin 32)
  raises : List (Nat × Nat)
  deriving DecidableEq, Repr

/-- The raise of a group that reports how many of its fields changed: none when no field did. -/
def countRaise (group changes : Nat) : List (Nat × Nat) := if changes = 0 then [] else [(group, changes)]

/-- R62's raise: the own slot is absent. -/
def ownSlotRaise (slot : Option (Fin 32)) : List (Nat × Nat) := if slot.isNone then [(2, 3)] else []

/-- The values of a sound block for a station address (R204 to R209). The own slot is found when all windows have been tested (R62);
its raise is one of group 2 (R205), so it follows that of R60 on window 0 and stands before those of groups 3 and 4 (R209). -/
def applyBlock (own : Addr) (b : List Octet) : Applied :=
  let ws := testedWindows (blockWindow b 0) (blockWindow b 1) (blockWindow b 2)
  let found := windowRaises (blockWindow b 0) (blockWindow b 1) (blockWindow b 2)
  let slot := translate ws own
  { options := blockOptions b
    windows := ws
    ownSlot := slot
    raises :=
      countRaise 1 (groupOneChanges b) ++
        found.filter (fun r => r.1 = 2) ++ ownSlotRaise slot ++ found.filter (fun r => r.1 ≠ 2) ++
        faultRaise 5 (curveFault (field b 30) (blockCurve b)) ++
        countRaise 6 (groupSixChanges b) ++ countRaise 7 (groupSevenChanges b) }

/-- The defaults for a station address, with the raise of group 0 (R203). -/
def applyDefaults (own : Addr) (detail : Nat) : Applied :=
  let ws := testedWindows (defaultWindow own) ViewWindow.disabled ViewWindow.disabled
  { options := defaultOptions, windows := ws, ownSlot := translate ws own, raises := [(0, detail)] }

/-- The outcome of READING (R203): the block when it was read and is sound, and the defaults otherwise. -/
def appliedOf (own : Addr) (block : Option (List Octet)) : Applied :=
  match block with
  | none => applyDefaults own 1
  | some b => if blockSound b then applyBlock own b else applyDefaults own 2

end Sys2Proof.Machine
end

