-- ==== Sys2Proof/Machine/Ops.lean ====
section
/-! DEFINITION. The operations that the meanings share: reading and setting the parts of the state, the passing of time,
the requests made of the fault table, the transmit queue, the fault table's takes, the chains' pending requests, the tile
marks and the outcome of a detail read. -/

namespace Sys2Proof.Machine

open Sys2Proof

/-- What a meaning answers. -/
abbrev Result := Host.Outcome State Fault Refusal

/-! ### Reading and setting parts of the state -/

/-- The values applied; the defaults stand for them where no value has been applied, and no block that reads them runs then. -/
def State.options (s : State) : Options := s.startUp.applied.getD defaultOptions

/-- The station address (R201); nothing that reads it runs before it is read. -/
def State.ownAddress (s : State) : Addr := s.startUp.address.getD 0

/-- Every block is released (R210). -/
def State.running (s : State) : Bool := s.startUp.phase = .running

/-- A chain is used when the values applied give it tiles (R114). -/
def State.used (s : State) (c : Fin 4) : Bool :=
  match s.startUp.applied with
  | none => false
  | some o => 0 < o.tileCounts.get c

/-- The used chain joined to a port (R114, R115). -/
def State.chainOnPort (s : State) (p : Fin 4) : Option (Fin 4) :=
  (List.finRange 4).find? fun c => s.used c && s.options.crossbar.get c = p

/-- What a port's select outputs show: the levels of the operation for which the port's chain last set them, or those before any. The
manual gives these levels no code, so they are a free value (Chapter 7, R114; log entry 28). -/
def State.selectOutputs (s : State) (p : Fin 4) : List Bool :=
  Config.selectLevels p.val ((s.chainOnPort p).bind fun c => (s.chains.get c).selected.map ChainState.code)

def State.setSensor (s : State) (i : Fin 2) (c : SensorChannel) : State := { s with sensors := s.sensors.set i c }
def State.setLine (s : State) (l : LineControl) : State := { s with line := l }
def State.setWire (s : State) (w : LineSamples) : State := { s with wire := w }
def State.setChain (s : State) (c : Fin 4) (ch : Chain) : State := { s with chains := s.chains.set c ch }
def State.setPort (s : State) (p : Fin 4) (q : Port) : State := { s with ports := s.ports.set p q }
def State.setFaults (s : State) (f : FaultTable) : State := { s with faults := f }
def State.setDeferred (s : State) (d : Option Deferred) : State :=
  { s with responder := { s.responder with deferred := d } }
def State.setTile (s : State) (i : Fin 64) (t : TileRecord) : State :=
  { s with collector := { s.collector with tiles := s.collector.tiles.set i t } }
def State.setSlot (s : State) (i : Fin 32) (n : Option Neighbour) : State :=
  { s with neighbours := { s.neighbours with slots := s.neighbours.slots.set i n } }

/-- The tile index of a chain's position (R114). -/
def tileIndex (c : Fin 4) (p : Fin 16) : Fin 64 := ⟨c.val * 16 + p.val, by omega⟩

/-- The record of a chain's position; none for a position that no tile index names. -/
def State.tileAt (s : State) (c : Fin 4) (position : Nat) : Option TileRecord :=
  if h : position < 16 then some (s.collector.tiles.get (tileIndex c ⟨position, h⟩)) else none

/-- A chain's position is marked present (R143). -/
def State.marked (s : State) (c : Fin 4) (position : Nat) : Bool :=
  match s.tileAt c position with
  | some t => t.marked
  | none => false

/-- A table of four places as a source of fault records. -/
def chainSource (c : Fin 4) : Source := BitVec.ofNat 6 c.val

/-! ### Time -/

/-- The running bit time at which an operation's final returned bit is due, for a census count (R116). -/
def expectedBits (state : ChainState) (count : Nat) : Nat :=
  match state with
  | .brightness => count + 32
  | .sweep => 33 * count
  | .detail => count + 160
  | .test => count + 254
  | .census => 0
  | .off => 0
  | .idle => 0
  | .down => 0

/-- An operation other than a census (R134). -/
def timedOperation (state : ChainState) : Bool :=
  state = .brightness || state = .sweep || state = .detail || state = .test

/-- The bit count that an operation does not pass: 64 for a census (R122), expected bits + 64 for the others (R134). -/
def Chain.bitLimit (ch : Chain) : Nat :=
  if ch.state = .census then 64
  else if timedOperation ch.state then expectedBits ch.state (ch.census.getD 0) + 64
  else 0

/-- The operation bit count after running bit times, which a stopped shift clock does not give (R128, R134), nor a sweep
whose final bit has arrived. -/
def Chain.runBits (bits : Nat) (ch : Chain) : Chain :=
  if ch.stalled || ch.finalArrived then ch else { ch with bitCount := min (ch.bitCount + bits) ch.bitLimit }

/-! ### The receive assembler (R41) -/

/-- The octet of a character's eight data samples, most significant first (R32, R41). -/
def octetOf (bits : List Level) : Octet :=
  octet (bits.foldl (fun n l => 2 * n + if l = .recessive then 1 else 0) 0)

/-- The assembler when a character of the frame is complete: the third is the length, a bad one above 24, and the frame is complete
when length + 4 characters have been assembled (R41). -/
def Assembler.after (characters : List Octet) : Assembler :=
  match characters[2]? with
  | none => .between characters
  | some n =>
    if Config.payloadMax < n.toNat then .ended characters .badLength
    else if n.toNat + 4 ≤ characters.length then .ended characters .complete
    else .between characters

/-- The assembler after a sample of a line that is not idle: a dominant one between two characters is a start bit, eight data samples
follow it, and then the stop sample, of which a dominant one is a framing error (R41). -/
def Assembler.take (l : Level) (a : Assembler) : Assembler :=
  match a with
  | .empty => .empty
  | .between characters =>
    match l with
    | .dominant => .within characters []
    | .recessive => .between characters
  | .within characters bits =>
    if bits.length < 8 then .within characters (bits ++ [l])
    else
      match l with
      | .dominant => .ended (characters ++ [octetOf bits]) .framingError
      | .recessive => Assembler.after (characters ++ [octetOf bits])
  | .ended characters reason => .ended characters reason
  | .ignoring => .ignoring

/-- The levels of a frame whose last stop sample is dominant (R41). -/
def framingLevels (octets : List Octet) : List Level := (charactersLevels octets).dropLast ++ [.dominant]

/-- The levels of the frame in assembly that have been read, from its first start bit on and but for the gaps between its characters
(R41). -/
def Assembler.read (a : Assembler) : Option (List Level) :=
  match a with
  | .empty => none
  | .between characters => some (charactersLevels characters)
  | .within characters bits => some (charactersLevels characters ++ .dominant :: bits)
  | .ended characters reason =>
    some (if reason = .framingError then framingLevels characters else charactersLevels characters)
  | .ignoring => none

/-- The levels still to be read of a frame with the given ones, when those read so far begin it. -/
def Assembler.rest (levels : List Level) (a : Assembler) : Option (List Level) :=
  match a.read with
  | some read => if read.isPrefixOf levels then some (levels.drop read.length) else none
  | none => none

/-- A frame has begun, and its discard or its reception has not been dealt with (R41). -/
def Assembler.holdsFrame (a : Assembler) : Bool := a.read.isSome

/-- The characters of a complete frame sum to 255 mod 256 (R42). -/
def goodSum (octets : List Octet) : Bool := octetSum octets = 255

/-- A good frame is complete (R42). -/
def Assembler.holdsGood (a : Assembler) : Bool :=
  match a with
  | .ended characters reason => reason = .complete && goodSum characters
  | .empty => false
  | .between _ => false
  | .within _ _ => false
  | .ignoring => false

/-! ### Samples of the line (R32, R33, R39, R41) -/

/-- One sample at the count `now`, which the assembler takes: a recessive one adds to the idle count, which holds at 12, and ends the
dominant run; a dominant one ends the recessive run and adds to the stuck count, which holds at 65; the first of a run shows the edge
half a bit time before it, and on an idle line it is the start bit of the first character of a frame (R32, R33, R39, R41). -/
def LineSamples.sample (bitTime now : Nat) (w : LineSamples) : Level → LineSamples
  | .recessive =>
    { w with
      idleCount := min (w.idleCount + 1) Config.idleBits
      stuckCount := 0
      sampledAt := now
      stuck := false
      assembler := w.assembler.take .recessive }
  | .dominant =>
    { w with
      idleCount := 0
      stuckCount := min (w.stuckCount + 1) Config.stuckBits
      sampledAt := now
      edge := if w.stuckCount = 0 then some (now - bitTime / 2) else w.edge
      idle := false
      assembler := if w.idle then .within [] [] else w.assembler.take .dominant }

/-- Samples taken one after another, a bit time apart, the first at the count `now` (R32). -/
def LineSamples.readFrom (bitTime : Nat) : Nat → List Level → LineSamples → LineSamples
  | _, [], w => w
  | now, level :: rest, w => LineSamples.readFrom bitTime (now + bitTime) rest (w.sample bitTime now level)

/-- Further samples, each a bit time after the one before it (R32). -/
def LineSamples.readOn (bitTime : Nat) (levels : List Level) (w : LineSamples) : LineSamples :=
  w.readFrom bitTime (w.sampledAt + bitTime) levels

/-- An idle line on which the station begins to drive its start bit at the count `t`: that edge is the latest, and no sample of its
frame is taken yet (R32, R34). -/
def LineSamples.atStart (t : Nat) : LineSamples :=
  { idleCount := Config.idleBits, stuckCount := 0, sampledAt := t, edge := some t, quiet := false, idle := true, stuck := false
    assembler := .empty }

/-- Recessive samples up to the twelfth in a row (R33). -/
def LineSamples.toTwelfth (bitTime : Nat) (w : LineSamples) : LineSamples :=
  w.readOn bitTime (List.replicate (Config.idleBits - w.idleCount) .recessive)

/-- The recessive samples of a quiet line up to the count `t`; its assembler has no frame in assembly (R33; log entry 5). -/
def LineSamples.restUntil (bitTime t : Nat) (w : LineSamples) : LineSamples :=
  let n := (t - w.sampledAt) / bitTime
  { w with
    idleCount := min (w.idleCount + n) Config.idleBits
    stuckCount := if n = 0 then w.stuckCount else 0
    sampledAt := w.sampledAt + n * bitTime
    stuck := w.stuck && n = 0 }

/-- The recessive-to-dominant edge in the bit time after the latest sample, where other stations may drive the line: a free value
(R32, R33; log entry 5). -/
def LineSamples.nextEdge (bitTime : Nat) (w : LineSamples) : Option Nat :=
  match Config.heardEdge w.sampledAt with
  | some x => if x < bitTime then some (w.sampledAt + x) else none
  | none => none

/-- The count of the next sample: in the middle of the bit that the next edge begins, or a bit time after the latest sample when no
edge comes first (R32). -/
def LineSamples.nextSample (bitTime : Nat) (w : LineSamples) : Nat :=
  match w.nextEdge bitTime with
  | some e => e + bitTime / 2
  | none => w.sampledAt + bitTime

/-- The next sample of a line that other stations may drive. Its level is a free value; but on an idle line it is recessive, since
the first dominant sample is LINE_LEAVES_IDLE, and an edge there only moves the sampling instant (R33); and at the 65th dominant sample
of a run the line stays dominant until STUCK_DOMINANT has come (log entry 5). -/
def LineSamples.heardSample (bitTime : Nat) (w : LineSamples) : LineSamples :=
  let now := w.nextSample bitTime
  let w1 := { w with edge := (w.nextEdge bitTime).or w.edge }
  if w.idleCount = Config.idleBits then { w1 with sampledAt := now }
  else if (w.stuckCount = Config.stuckBits && !w.stuck) || Config.heardDominant now then w1.sample bitTime now .dominant
  else w1.sample bitTime now .recessive

/-- The samples, at most `n` of them, of a line that other stations may drive, up to the count `t` (R32). -/
def LineSamples.heardUntil (bitTime t : Nat) : Nat → LineSamples → LineSamples
  | 0, w => w
  | n + 1, w =>
    if w.nextSample bitTime ≤ t then LineSamples.heardUntil bitTime t n (w.heardSample bitTime) else w

/-- The line's bit time at the station's rate (R5). -/
def State.bitTime (s : State) : Nat := bitTimeOf s.options.lineRate

/-- The levels of the frame in flight (R32, R35). -/
def LineControl.sentLevels (l : LineControl) : List Level :=
  match l.flight with
  | some f => f.frame.levels
  | none => []

/-- The count at the middle of bit `k` of the frame that the station sends (R32). -/
def State.bitMiddle (s : State) (k : Nat) : Nat := s.line.startedAt + k * s.bitTime + s.bitTime / 2

/-- The bits of an own frame sampled by the count `t`, each at its middle, for its start and a bit time (R32). -/
def ownSamples (bitTime startedAt t : Nat) : Nat := (t + bitTime / 2 - startedAt) / bitTime

/-- The line after the given samples of the own frame's bits, from its start bit on (R32, R34). -/
def State.ownRead (levels : List Level) (s : State) : LineSamples :=
  (LineSamples.atStart s.line.startedAt).readFrom s.bitTime (s.bitMiddle 0) levels

/-- The samples of the line as they stand at the count `t`: those of the own frame while the station sends it, whose bits read back
as sent unless a command says otherwise; those of a line that is known to be quiet; and otherwise those of a line that other
stations may drive (R32, R33, R39; log entry 5). -/
def State.sampledBy (t : Nat) (s : State) : LineSamples :=
  if s.line.sending then s.ownRead (s.line.sentLevels.take (ownSamples s.bitTime s.line.startedAt t))
  else if s.wire.quiet then s.wire.restUntil s.bitTime t
  else s.wire.heardUntil s.bitTime t (t - s.wire.sampledAt)

/-- The level that the part drives now: that of its frame's bit whose bit time it is, while it sends; dominant to the end of the bit
in which it aborted, when that bit was sent dominant (R37); otherwise it leaves the line recessive (R32, R54, R57). -/
def State.drives (s : State) : Level :=
  if s.line.sending then s.line.sentLevels.getD ((s.timeBase - s.line.startedAt) / s.bitTime) .recessive
  else match s.line.drivesUntil with
    | some t => if s.timeBase < t then .dominant else .recessive
    | none => .recessive

/-! ### The passing of time -/

/-- Whether the present moment stands half a microsecond after the time base's latest count: the shared PWM count shows it once the
blocks are released (R2), and before that nothing falls between two counts (log entry 23). -/
def State.half (s : State) : Nat := if s.running then s.pwmCount / Config.pwmPerHalf % 2 else 0

/-- `n` halves of a microsecond pass, and none leave all as it is: the time base counts whole microseconds unless reset holds it (R1),
and once the blocks are released the PWM count, the bit counts of running operations, one bit time to each half, and the samples of
the line advance with it (R2, R32, R134, R140). -/
def State.passHalves (n : Nat) (s : State) : State :=
  if n = 0 || s.startUp.phase = .resetHeld then s
  else if s.running then
    { s with
      timeBase := s.timeBase + (s.half + n) / 2
      pwmCount := (s.pwmCount + Config.pwmPerHalf * n) % Config.pwmPeriod
      chains := s.chains.map (Chain.runBits n)
      wire := s.sampledBy (s.timeBase + (s.half + n) / 2) }
  else { s with timeBase := s.timeBase + n / 2 }

/-- `d` microseconds pass. -/
def State.passTime (d : Nat) (s : State) : State := s.passHalves (2 * d)

/-- Time passes until the time base comes to `t`; none passes if it has come to it or gone beyond. -/
def State.arriveAt (t : Nat) (s : State) : State := s.passHalves (2 * (t - s.timeBase) - s.half)

/-- Time passes until a chain's operation stands at running bit time `k`, half a microsecond for each bit (R2). -/
def State.reachBit (c : Fin 4) (k : Nat) (s : State) : State :=
  let s1 := s.passHalves (k - (s.chains.get c).bitCount)
  s1.setChain c { s1.chains.get c with bitCount := k }

/-! ### Requests of the fault table -/

/-- The block that makes the requests of a kind and source (9.2). -/
inductive Requester where
  | sensorUnit | chain (c : Source) | collector | scanner | lineController | startUpUnit
  deriving DecidableEq, Repr

/-- R163, 9.2: each pair of kind and source has one requester. -/
def requesterOf (kind : FaultKind) (source : Source) : Requester :=
  match kind with
  | .sensorSilent => .sensorUnit
  | .chainDown => .chain source
  | .chainTimeout => .chain source
  | .chainIntegrity => .chain source
  | .tileCount => .chain source
  | .tileOpen => .collector
  | .tileShort => .collector
  | .tileSupply => .collector
  | .thermalWarn => .collector
  | .thermalCrit => .collector
  | .supplyDroop => .scanner
  | .lineError => .lineController
  | .lineStuck => .lineController
  | .addressClash => .lineController
  | .configDefaulted => .startUpUnit

/-- A requester makes a request now; it waits until the fault table takes it (R166). -/
def State.request (kind : FaultKind) (source : Source) (action : FaultAction) (s : State) : State :=
  { s with requests := s.requests ++ [{ madeAt := s.timeBase, kind := kind, source := source, action := action }] }

/-- Requests made one after another. -/
def State.requestAll (s : State) (rs : List (FaultKind × Source × FaultAction)) : State :=
  rs.foldl (fun t r => t.request r.1 r.2.1 r.2.2) s

/-- The status collector's outgoing request list holds a request (R145). -/
def State.collectorWaits (s : State) : Bool :=
  s.requests.any fun r => requesterOf r.kind r.source = .collector

/-- A request names this kind, source and action. -/
def Request.names (r : Request) (kind : FaultKind) (source : Source) (action : FaultAction) : Bool :=
  r.kind = kind && r.source = source && r.action = action

/-- Whether the fault table may take the first waiting request so named next: every request made before it was made at
the same instant by another requester (R166). `ahead` holds the requests already passed over. -/
def turnOf (kind : FaultKind) (source : Source) (action : FaultAction) : List Request → List Request → Bool
  | _, [] => false
  | ahead, r :: rest =>
    if r.names kind source action then
      ahead.all fun q => q.madeAt = r.madeAt && requesterOf q.kind q.source ≠ requesterOf r.kind r.source
    else turnOf kind source action (r :: ahead) rest

/-- The waiting requests without the first so named. -/
def dropRequest (kind : FaultKind) (source : Source) (action : FaultAction) (rs : List Request) : List Request :=
  rs.eraseP fun r => r.names kind source action

/-! ### The transmit queue (R51 to R54) -/

/-- `q` is no more urgent than `f` would be after it: it keeps its place ahead of `f` (R51). -/
def staysAhead (f q : Frame) : Bool := q.urgency.code ≤ f.urgency.code

/-- The waiting order with a frame added: after every frame of its own urgency or a more urgent one (R51). -/
def insertFrame (f : Frame) (queue : List Frame) : List Frame :=
  queue.takeWhile (staysAhead f) ++ f :: queue.dropWhile (staysAhead f)

/-- The first waiting BEACON replaced in its place (R52). -/
def replaceBeacon (f : Frame) : List Frame → List Frame
  | [] => []
  | q :: rest => if q.kind = .beacon then f :: rest else q :: replaceBeacon f rest

/-- The code of the least urgent class present. -/
def leastUrgent (queue : List Frame) : Nat := queue.foldl (fun m q => max m q.urgency.code) 0

/-- The waiting order without the most recently queued frame of the least urgent class present (R53). -/
def dropLeastUrgent (queue : List Frame) : List Frame :=
  (queue.reverse.eraseP fun q => q.urgency.code = leastUrgent queue).reverse

/-- A line counter after one more count (R56). -/
def counted (n : Nat) : Nat := satSucc Config.counterTop n

/-- A frame offered to the transmit queue (R51 to R54). -/
def LineControl.offer (f : Frame) (l : LineControl) : LineControl :=
  if l.listenOnly then l
  else if f.kind = .beacon && l.queue.any (fun q => q.kind = .beacon) then
    { l with queue := replaceBeacon f l.queue }
  else if l.queue.length < Config.queuePlaces then { l with queue := insertFrame f l.queue }
  else
    let counters := { l.counters with drops := counted l.counters.drops }
    if l.queue.any fun q => f.urgency.code < q.urgency.code then
      { l with queue := insertFrame f (dropLeastUrgent l.queue), counters := counters }
    else { l with counters := counters }

def State.offerFrame (f : Frame) (s : State) : State := s.setLine (s.line.offer f)

/-! ### The fault table's takes (R166 to R175, R178, R181) -/

/-- A record is named by its kind and source (R163). -/
def FaultRecord.isFor (r : FaultRecord) (kind : FaultKind) (source : Source) : Bool :=
  r.kind = kind && r.source = source

/-- An ACTIVE record of severity MAJOR or CRITICAL asserts the FAULT output (R181). -/
def FaultRecord.assertsOutput (r : FaultRecord) : Bool :=
  r.state = .active && faultSeverity r.kind ≠ .minor

def outputOf (records : List FaultRecord) : Bool := records.any FaultRecord.assertsOutput

/-- The place of the record that a raise of the given severity evicts from a full table (R173). -/
def evictionPlace (severity : Severity) (records : List FaultRecord) : Option Nat :=
  let cleared := records.filter fun r => r.state = .cleared
  if cleared.isEmpty then
    let low := records.foldl (fun m r => min m (faultSeverity r.kind).code) 3
    if low < severity.code then records.findIdx? fun r => (faultSeverity r.kind).code = low else none
  else
    let top := cleared.foldl (fun m r => max m r.clearedAge) 0
    records.findIdx? fun r => r.state = .cleared && r.clearedAge = top

/-- The record a raise creates (R167). -/
def newRecord (kind : FaultKind) (source : Source) (detail : Option Detail) : FaultRecord :=
  { kind := kind, source := source, state := .active, count := 1, detail := detail, clearedAge := 0 }

/-- The record after a raise finds it (R168, R169). -/
def raisedRecord (detail : Option Detail) (r : FaultRecord) : FaultRecord :=
  match r.state with
  | .active => { r with detail := detail }
  | .cleared => { r with state := .active, count := satSucc 255 r.count, detail := detail, clearedAge := 0 }

/-- Every record named by the kind and source changed by `f`, in its place. -/
def updateRecord (kind : FaultKind) (source : Source) (f : FaultRecord → FaultRecord) (records : List FaultRecord) :
    List FaultRecord :=
  records.map fun r => if r.isFor kind source then f r else r

/-- The table with new records, and the FAULT output that follows from them (R181). -/
def FaultTable.withRecords (t : FaultTable) (records : List FaultRecord) : FaultTable :=
  { t with records := records, output := outputOf records }

/-- A raise taken: the table after it, and the record whose RAISED notice it offers (R167 to R169, R173, R174, R178). -/
def FaultTable.raise (kind : FaultKind) (source : Source) (detail : Option Detail) (t : FaultTable) :
    FaultTable × Option FaultRecord :=
  let fresh := newRecord kind source detail
  match t.records.find? fun r => r.isFor kind source with
  | some r =>
    (t.withRecords (updateRecord kind source (raisedRecord detail) t.records),
      if r.state = .cleared then some (raisedRecord detail r) else none)
  | none =>
    if t.records.length < Config.faultPlaces then (t.withRecords (t.records ++ [fresh]), some fresh)
    else
      match evictionPlace (faultSeverity kind) t.records with
      | some i => (t.withRecords (t.records.eraseIdx i ++ [fresh]), some fresh)
      | none => ({ t with overflow := true }, none)

/-- The record after a withdraw finds it ACTIVE (R170). -/
def clearedRecord (r : FaultRecord) : FaultRecord := { r with state := .cleared, clearedAge := 0 }

/-- A withdraw taken: the table after it, and the record whose CLEARED notice it offers (R170, R178). -/
def FaultTable.withdraw (kind : FaultKind) (source : Source) (t : FaultTable) : FaultTable × Option FaultRecord :=
  match t.records.find? fun r => r.isFor kind source && r.state = .active with
  | some r =>
    (t.withRecords (updateRecord kind source
      (fun q => if q.state = .active then clearedRecord q else q) t.records), some (clearedRecord r))
  | none => (t, none)

/-- The FAULT NOTICE of an event on a record (R47, R178). -/
def State.notice (s : State) (event : NoticeEvent) (r : FaultRecord) : Frame :=
  { urgency := noticeUrgency event r.kind, sender := s.ownAddress, kind := .faultNotice,
    payload := noticePayload event r }

/-- The notice offered at a take, if any. -/
def State.offerNotice (event : NoticeEvent) (r : Option FaultRecord) (s : State) : State :=
  match r with
  | none => s
  | some r => s.offerFrame (s.notice event r)

/-- A take occupies the table for 1 µs from the count at which it is made (R166). -/
def State.beginTake (s : State) : State :=
  let s1 := s.arriveAt s.faults.freeAt
  s1.setFaults { s1.faults with freeAt := s1.timeBase + 1 }

/-- The fault table takes a request that waits for it: the raise or withdraw is made and its notice offered (R166). -/
def State.takeAction (kind : FaultKind) (source : Source) (action : FaultAction) (s : State) : State :=
  match action with
  | .raise detail =>
    let out := s.faults.raise kind source detail
    (s.setFaults out.1).offerNotice .raised out.2
  | .withdraw =>
    let out := s.faults.withdraw kind source
    (s.setFaults out.1).offerNotice .cleared out.2

/-- The request stands among those that wait: it is made now unless it already waits (log entry 6). -/
def State.ensureRequest (kind : FaultKind) (source : Source) (action : FaultAction) (s : State) : State :=
  if s.requests.any fun r => r.names kind source action then s else s.request kind source action

/-- The fault table takes the named request when its turn has come (R166); otherwise it goes on waiting. -/
def State.takeRequest (kind : FaultKind) (source : Source) (action : FaultAction) (s : State) : State :=
  let s1 := s.ensureRequest kind source action
  if turnOf kind source action [] s1.requests then
    let s2 := s1.beginTake
    State.takeAction kind source action { s2 with requests := dropRequest kind source action s2.requests }
  else s1

/-! ### What is read from the fault table (R176, R177, R180) -/

def FaultTable.activeRecords (t : FaultTable) : List FaultRecord := t.records.filter fun r => r.state = .active

/-- The number of ACTIVE records (R180). -/
def FaultTable.activeCount (t : FaultTable) : Nat := t.activeRecords.length

/-- The highest severity among the ACTIVE records (R180). -/
def FaultTable.highest (t : FaultTable) : Option Severity :=
  Severity.ofCode (t.activeRecords.foldl (fun m r => max m (faultSeverity r.kind).code) 0)

/-- Some ACTIVE record is of this kind. -/
def FaultTable.hasActive (t : FaultTable) (kind : FaultKind) : Bool := t.activeRecords.any fun r => r.kind = kind

/-- The derate (R176). -/
def FaultTable.derate (t : FaultTable) : Nat :=
  if t.hasActive .thermalWarn then 32 else if t.hasActive .supplyDroop then 16 else 0

/-- The dark cause that the fault table reports (R177). -/
def State.faultDark (s : State) : Bool :=
  s.faults.hasActive .thermalCrit ||
    ((List.finRange 4).any s.used &&
      (List.finRange 4).all fun c =>
        !s.used c || s.faults.activeRecords.any fun r => r.isFor .chainDown (chainSource c))

/-! ### Own ambient (R26 to R28) -/

/-- A channel's code, while the channel is VALID. -/
def SensorChannel.code (c : SensorChannel) : Option Nat := if c.state = .valid then c.lastCode else none

/-- A_own from the two channels' codes (R26). -/
def averageCode : Option Nat → Option Nat → Option Nat
  | some a, some b => some ((a + b) / 2)
  | some a, none => some a
  | none, b => b

/-- A_own, formed afresh at each read (R27). -/
def State.ownAmbient (s : State) : Option Nat := averageCode (s.sensors.get 0).code (s.sensors.get 1).code

/-! ### The deferred record's outcome (R196) -/

/-- A completed detail (with its words) or a failed one (without) reaches the WAITING deferred record. -/
def State.detailOutcome (words : Option DetailWords) (s : State) : State :=
  match s.responder.deferred with
  | some d =>
    if d.state = .waiting then
      s.setDeferred (some { d with
        state := match words with
          | some w => .ready w
          | none => .failed
        readyAge := 0 })
    else s
  | none => s

/-! ### Posting requests to a chain (R118) and starting them (R119) -/

def Chain.postCensus (ch : Chain) : Chain :=
  if ch.state = .off then ch else { ch with pend := { ch.pend with census := true } }
def Chain.postSweep (ch : Chain) : Chain :=
  if ch.state = .off then ch else { ch with pend := { ch.pend with sweep := true } }
def Chain.postTest (ch : Chain) : Chain :=
  if ch.state = .off then ch else { ch with pend := { ch.pend with test := true } }

/-- A brightness request posted: it replaces the pending value (R118). -/
def Chain.postBrightness (value : Nat) (ch : Chain) : Chain :=
  if ch.state = .off then ch
  else { ch with pend := { ch.pend with brightness := true }, pendingValue := value }

/-- A detail request posted: an earlier one keeps its position (R118). -/
def Chain.postDetail (position : Nat) (ch : Chain) : Chain :=
  if ch.state = .off || ch.pend.detail then ch
  else { ch with pend := { ch.pend with detail := true }, pendingPosition := position }

/-- A detail request posted by the query responder; a DOWN chain fails it back at once (R118). -/
def State.postDetail (c : Fin 4) (position : Nat) (s : State) : State :=
  if (s.chains.get c).state = .down then s.detailOutcome none
  else s.setChain c ((s.chains.get c).postDetail position)

/-- The settling controller's posting: it sets the current duty word too (R100, R140). -/
def Chain.postDuty (value : Nat) (ch : Chain) : Chain :=
  if ch.state = .off then ch else { ch.postBrightness value with duty := some value }

/-- A chain enters a state: bit time 0, nothing returned yet (R116, R117). -/
def Chain.begin (op : ChainState) (ch : Chain) : Chain :=
  { ch with
    state := op, bitCount := 0, lead := none, wordsDone := 0, entered := [], finalArrived := false, stalled := false }

/-- An operation ends: the chain is IDLE and its operation bit count stands at 0 (R117). -/
def Chain.finish (ch : Chain) : Chain := ch.begin .idle

/-- An operation starts: the controller sets the port's select outputs for it (Chapter 7, R114), and they stand until the next start: DESIGN
CHOICE (log entry 28). -/
def Chain.start (op : ChainState) (ch : Chain) : Chain := { ch.begin op with selected := some op }

def Chain.startCensus (ch : Chain) : Chain := { ch.start .census with pend := { ch.pend with census := false } }
def Chain.startBrightness (ch : Chain) : Chain :=
  { ch.start .brightness with pend := { ch.pend with brightness := false }, sentValue := ch.pendingValue }
def Chain.startDetail (ch : Chain) : Chain :=
  { ch.start .detail with pend := { ch.pend with detail := false }, sentPosition := ch.pendingPosition }
def Chain.startSweep (ch : Chain) : Chain := { ch.start .sweep with pend := { ch.pend with sweep := false } }
def Chain.startTest (ch : Chain) : Chain := { ch.start .test with pend := { ch.pend with test := false } }
def Chain.clearDetail (ch : Chain) : Chain := { ch with pend := { ch.pend with detail := false } }

/-- A detail request whose position is not present at its start fails back, and the chain stays IDLE (R130). -/
def State.startDetail (c : Fin 4) (s : State) : State :=
  let ch := s.chains.get c
  if s.marked c ch.pendingPosition then s.setChain c ch.startDetail
  else (s.setChain c ch.clearDetail).detailOutcome none

/-- A released chain starts the highest of its pending requests when it is IDLE, and a census when it is DOWN (R119). -/
def State.startHighest (c : Fin 4) (s : State) : State :=
  let ch := s.chains.get c
  match ch.state with
  | .idle =>
    if ch.pend.census then s.setChain c ch.startCensus
    else if ch.pend.brightness then s.setChain c ch.startBrightness
    else if ch.pend.detail then s.startDetail c
    else if ch.pend.sweep then s.setChain c ch.startSweep
    else if ch.pend.test then s.setChain c ch.startTest
    else s
  | .down => if ch.pend.census then s.setChain c ch.startCensus else s
  | .off => s
  | .census => s
  | .brightness => s
  | .sweep => s
  | .detail => s
  | .test => s

/-- A chain's requests of one source. -/
def State.chainRequest (c : Fin 4) (kind : FaultKind) (action : FaultAction) (s : State) : State :=
  s.request kind (chainSource c) action

/-! ### Tile marks (R144) and sweep-end reports (R151) -/

/-- The reported conditions in the order in which a mark withdraws them (R144). -/
def ReportedSet.kinds (r : ReportedSet) : List FaultKind :=
  (if r.tileOpen then [.tileOpen] else []) ++ (if r.tileShort then [.tileShort] else []) ++
    (if r.tileSupply then [.tileSupply] else []) ++ (if r.thermalCrit then [.thermalCrit] else []) ++
    (if r.thermalWarn then [.thermalWarn] else [])

/-- A mark applied to a tile record (R144). -/
def State.markTile (i : Fin 64) (present : Bool) (s : State) : State :=
  let t := s.collector.tiles.get i
  if present = t.marked then s
  else if present then s.setTile i { TileRecord.reset with marked := true }
  else
    (s.setTile i TileRecord.reset).requestAll
      (t.reported.kinds.map fun k => (k, BitVec.ofNat 6 i.val, FaultAction.withdraw))

/-- A chain's tiles marked: the first `n` positions present, the others absent (R123, R124). The positions are marked, and the
requests of R144 made, in ascending order: DESIGN CHOICE (log entry 14), the manual orders only the requests of one record. -/
def State.markChain (c : Fin 4) (n : Nat) (s : State) : State :=
  (List.finRange 16).foldl (fun t p => t.markTile (tileIndex c p) (p.val < n)) s

/-- A tile record after a sweep-end report that does not name its position (R151). -/
def TileRecord.missed (t : TileRecord) : TileRecord :=
  if t.marked then { t with sweepsSince := satSucc 255 t.sweepsSince } else t

/-- A sweep-end report applied to a chain's tile records (R151). -/
def State.sweepReport (c : Fin 4) (entered : List Nat) (s : State) : State :=
  { s with collector := { s.collector with
      tiles := s.collector.tiles.mapWithIndex fun i t =>
        if i.val / 16 = c.val && !entered.contains (i.val % 16) then t.missed else t } }

/-! ### Good frames received (R42 to R44) -/

/-- The line when the rest of the given levels of a frame has been read, each sample a bit time after the one before it, by a station
that does not itself send: the levels read so far begin the frame (R32, R41; log entry 7). -/
def State.lineAfter (levels : List Level) (s : State) : Option LineSamples :=
  if s.running && !s.line.sending then (s.wire.assembler.rest levels).map fun more => s.wire.readOn s.bitTime more
  else none

/-- Time passes until the latest of the given samples of the line, and they are taken. -/
def State.arriveWith (w : LineSamples) (s : State) : State := (s.arriveAt w.sampledAt).setWire w

/-- The line when a good frame of these characters has been assembled; no station drives it then (R41, R42; log entry 5). -/
def State.lineAfterGood (octets : List Octet) (s : State) : Option LineSamples :=
  (s.lineAfter (charactersLevels octets)).bind fun w =>
    if w.assembler = .ended octets .complete && goodSum octets then some { w with quiet := true, assembler := .empty } else none

/-- The line when the given levels of a frame have been read, if the assembler then stands as given, which is what discards the frame:
from then on it takes no further characters (R41). -/
def State.lineAfterBad (levels : List Level) (finish : LineSamples → LineSamples) (ends : Assembler) (quiet : Bool) (s : State) :
    Option LineSamples :=
  (s.lineAfter levels).bind fun w =>
    if (finish w).assembler = ends then some { finish w with quiet := quiet, assembler := .ignoring } else none

/-- The line when a frame is discarded, if it is; after a bad check no station drives it (R41, R42; log entry 5). -/
def State.lineAtDiscard (s : State) : DiscardCause → Option LineSamples
  | .framingError octets => s.lineAfterBad (framingLevels octets) id (.ended octets .framingError) false
  | .badLength octets => s.lineAfterBad (charactersLevels octets) id (.ended octets .badLength) false
  | .idleBeforeComplete octets =>
    s.lineAfterBad (charactersLevels octets) (LineSamples.toTwelfth s.bitTime) (.between octets) false
  | .badCheck octets =>
    if goodSum octets then none else s.lineAfterBad (charactersLevels octets) id (.ended octets .complete) true

/-- A good frame is counted (R42). -/
def State.countGood (s : State) : State :=
  s.setLine { s.line with counters := { s.line.counters with good := counted s.line.counters.good } }

/-- A frame counted bad (R41, R42). -/
def LineControl.countBad (l : LineControl) : LineControl :=
  { l with counters := { l.counters with bad := counted l.counters.bad } }

/-- The frame in assembly is discarded and counted bad, if it so ends (R41, R42). -/
def State.discard (cause : DiscardCause) (s : State) : State :=
  match s.lineAtDiscard cause with
  | some w => (s.arriveWith w).setLine s.line.countBad
  | none => s

/-- A frame bears the station's own address, at a station that compares (R44). -/
def State.clashes (s : State) (sender : Addr) : Bool := !s.line.listenOnly && sender = s.ownAddress

/-- ADDRESS_CLASH is raised with the frame's kind, and the clash quiet timer starts afresh (R44). -/
def State.clash (kind : BitVec 4) (s : State) : State :=
  (s.setLine { s.line with clashEnd := some (s.timeBase + Config.clashQuiet) }).request
    .addressClash 0 (.raise (some (kind.setWidth 16)))

/-- A good frame counted and compared; a frame not held back is handed on to `take` (R42 to R44). -/
def State.compare (kind : BitVec 4) (sender : Addr) (take : State → State) (s : State) : State :=
  if s.clashes sender then s.countGood.clash kind else take s.countGood

/-- A good frame of these characters heard, if it is on the line (R41 to R44). -/
def State.hear (octets : List Octet) (kind : BitVec 4) (sender : Addr) (take : State → State) (s : State) : State :=
  match s.lineAfterGood octets with
  | some w => (s.arriveWith w).compare kind sender take
  | none => s

/-- A QUERY is handed on to the responder of the station it names (R43, R54). -/
def State.addressed (s : State) (target : BitVec 16) : Bool :=
  !s.line.listenOnly && target = s.ownAddress.setWidth 16

/-- A REPLY offered to the transmit queue (R185). -/
def State.reply (q : Query) (status : ReplyStatus) (data : List Octet) (s : State) : State :=
  s.offerFrame { urgency := .order, sender := s.ownAddress, kind := .reply, payload := replyPayload q status data }

end Sys2Proof.Machine
end

