-- ==== Sys2Proof/Machine/Caps.lean ====
section
/-! DEFINITION. The cap unit: CAP_SETTING, CAP_CANCEL and CAP_COUNTDOWN (Chapter 6). -/

namespace Sys2Proof.Machine

open Sys2Proof

/-- A CAP matches the station: the ten address bits of base and mask are compared (R105). -/
def capMatches (own : Addr) (c : CapWire) : Bool :=
  (own &&& c.mask.setWidth 10) == (c.base.setWidth 10 &&& c.mask.setWidth 10)

/-- The record a setting makes, whole (R107). -/
def capRecordOf (sender : Addr) (c : CapWire) (duration : Nat) : CapRecord :=
  { level := min c.level.toNat 511
    blank := c.flags.getLsbD 0
    immediate := c.flags.getLsbD 1
    remaining := 4 * min duration 3600
    source := sender }

def State.setCap (s : State) (r : Option CapRecord) : State := { s with cap := { s.cap with record := r } }

/-- A CAP handed to the cap unit: a matching one of duration 0 cancels, any other matching one sets (R105 to R107). -/
def State.takeCap (sender : Addr) (c : CapWire) (duration : Nat) (s : State) : State :=
  if capMatches s.ownAddress c then
    s.setCap (if duration = 0 then none else some (capRecordOf sender c duration))
  else s

/-- A CAP frame of its fixed part heard: it is handed to the cap unit (R42 to R44, R48). -/
def State.hearCap (sender : Addr) (c : CapWire) (duration : BitVec 16) (s : State) : State :=
  s.hear (Frame.octets ⟨.order, sender, .cap, capOctets c duration⟩) 3 sender (State.takeCap sender c duration.toNat)

/-- CAP_SETTING (R105, R107). -/
def execCapSetting (sender : Addr) (c : CapWire) (duration : BitVec 16) (s : State) : Result :=
  .next (s.hearCap sender c duration)

/-- CAP_CANCEL (R105, R106). -/
def execCapCancel (sender : Addr) (c : CapWire) (s : State) : Result := .next (s.hearCap sender c 0)

/-- A record counted down by 1; none when its remaining time reaches 0 (R108). -/
def CapRecord.countDown (r : CapRecord) : Option CapRecord :=
  if r.remaining ≤ 1 then none else some { r with remaining := r.remaining - 1 }

/-- CAP_COUNTDOWN (R108). -/
def execCapCountdown (s : State) : Result :=
  .next (match s.cap.countDue with
    | none => s
    | some d =>
      let s1 := s.arriveAt d
      { s1 with cap := ⟨s1.cap.record.bind CapRecord.countDown, some (d + Config.quarterSecond)⟩ })

end Sys2Proof.Machine
end

