-- ==== Sys2Proof/Machine/Chains.lean ====
section
/-! DEFINITION. The chain controllers: the start of operations, their completions and the timeout, the interval expiries, and
the PWM lines (Chapter 7). A completion carries the running bit time at which the lead bit arrived, which moves every
returned bit (R116); it cannot fall after the operation's timeout (R134). -/

namespace Sys2Proof.Machine

open Sys2Proof

/-- The detail of CHAIN_TIMEOUT (R134). -/
def timeoutCode : ChainState → Nat
  | .brightness => 1
  | .detail => 2
  | .sweep => 3
  | .test => 4
  | .off => 0
  | .census => 0
  | .idle => 0
  | .down => 0

/-- A chain runs this operation and an event of it falls at running bit time `k`. -/
def State.runs (s : State) (c : Fin 4) (op : ChainState) (k : Nat) : Bool :=
  s.running && (s.chains.get c).state = op && k ≤ (s.chains.get c).bitLimit

/-- OPERATION_START (R119). -/
def execOperationStart (c : Fin 4) (s : State) : Result :=
  .next (if s.running then s.startHighest c else s)

/-! ### CENSUS -/

/-- TILE_COUNT raised or withdrawn by a usable census (R124). -/
def tileCountAction (count tiles : Nat) : FaultAction :=
  if count = tiles then .withdraw else .raise (some (BitVec.ofNat 16 (min count 16)))

/-- The chain after a usable census: sweep and, when D_c is present, brightness posted; IDLE; retry interval stopped (R124). -/
def Chain.usable (count : Nat) (ch : Chain) : Chain :=
  let posted := ch.finish.postSweep
  let lit := match ch.duty with
    | some d => posted.postBrightness d
    | none => posted
  { lit with census := some count, retryDue := none }

/-- What a usable census does, in the order of R124. -/
def State.censusUsable (c : Fin 4) (count : Nat) (s : State) : State :=
  let tiles := s.options.tileCounts.get c
  let s1 := s.chainRequest c .tileCount (tileCountAction count tiles)
  let s2 := (s1.chainRequest c .chainDown .withdraw).chainRequest c .chainTimeout .withdraw
  let s3 := s2.markChain c (min count tiles)
  s3.setChain c ((s3.chains.get c).usable count)

/-- The chain after an unusable census: DOWN, the pending detail's flag cleared, and the retry interval started afresh
unless it already runs, which it does exactly while the chain is DOWN (R121, R123). -/
def Chain.unusable (count : Option Nat) (retry : Nat) (ch : Chain) : Chain :=
  { ch.begin .down with
    pend := { ch.pend with detail := false }
    census := count
    retryDue := some (ch.retryDue.getD retry) }

/-- What an unusable census does (R123). -/
def State.censusDown (c : Fin 4) (straightBack : Bool) (s : State) : State :=
  let hadDetail := (s.chains.get c).pend.detail
  let s1 := s.setChain c ((s.chains.get c).unusable (if straightBack then some 0 else none)
    (s.timeBase + Config.censusRetry))
  let s2 := (s1.markChain c 0).chainRequest c .chainDown
    (.raise (some (if straightBack then 0 else 0xFFFF)))
  if hadDetail then s2.detailOutcome none else s2

/-- CENSUS_COMPLETE (R122, R124); a lead bit at bit time 0 or beyond 64 ends the census by R123 instead. -/
def execCensusComplete (c : Fin 4) (lead : Nat) (s : State) : Result :=
  .next (if s.running && (s.chains.get c).state = .census then
    if 1 ≤ lead && lead ≤ 64 then (s.reachBit c lead).censusUsable c lead
    else (s.reachBit c (min lead 64)).censusDown c (lead = 0)
  else s)

/-- CENSUS_UNUSABLE (R123): at bit time 0, or at bit time 64. -/
def execCensusUnusable (c : Fin 4) (straightBack : Bool) (s : State) : Result :=
  .next (if s.running && (s.chains.get c).state = .census then
    (s.reachBit c (if straightBack then 0 else 64)).censusDown c straightBack
  else s)

/-! ### BRIGHTNESS -/

/-- The chain after a completed BRIGHTNESS, by its echo (R126). -/
def Chain.echoed (echo : BitVec 32) (ch : Chain) : Chain :=
  if echo = brightnessWord ch.sentValue then { ch.finish with echoMiss := 0 }
  else
    let missed := { ch.finish with echoMiss := satSucc 255 ch.echoMiss }
    if ch.echoMiss = 0 && !ch.pend.brightness then missed.postBrightness ch.sentValue else missed

/-- A second echo miss in a row, or a later one (R126). -/
def Chain.missesAgain (echo : BitVec 32) (ch : Chain) : Bool :=
  echo ≠ brightnessWord ch.sentValue && 1 ≤ ch.echoMiss

/-- What a completed BRIGHTNESS does (R126, R137). -/
def State.endBrightness (c : Fin 4) (echo : BitVec 32) (s : State) : State :=
  let ch := s.chains.get c
  let s1 := s.setChain c (ch.echoed echo)
  let s2 := if ch.missesAgain echo then s1.chainRequest c .chainIntegrity (.raise (some 0xFFFF)) else s1
  s2.chainRequest c .chainTimeout .withdraw

/-- BRIGHTNESS_COMPLETE (R125, R126). -/
def execBrightnessComplete (c : Fin 4) (lead : Nat) (echo : BitVec 32) (s : State) : Result :=
  .next (if s.runs c .brightness (lead + 32) then (s.reachBit c (lead + 32)).endBrightness c echo else s)

/-! ### SWEEP -/

/-- The running bit time at which the word of position `p` completes (R127). -/
def wordTime (lead p : Nat) : Nat := lead + 32 * (p + 1)

/-- The running bit time at which a sweep's lead bit arrived: the one that an earlier word of the sweep showed, or the one that this
word shows. One lead bit opens all its words (R116; log entry 19). -/
def Chain.leadOr (lead : Nat) (ch : Chain) : Nat := ch.lead.getD lead

/-- A sweep's next word may complete: the shift clock runs and a tile of the census count has not answered (R127, R128). -/
def Chain.awaitsWord (ch : Chain) : Bool := !ch.stalled && ch.wordsDone < ch.census.getD 0

/-- A status word completed at its position: into the FIFO, or into the register with the shift clock stopped, or discarded
when its position is not marked present (R128, R129). -/
def Chain.wordDone (present : Bool) (word : BitVec 32) (ch : Chain) : Chain :=
  let p := ch.wordsDone
  let counted := { ch with wordsDone := p + 1, finalArrived := p + 1 = ch.census.getD 0 }
  if !present then counted
  else if ch.fifo.length < Config.fifoDepth then
    { counted with fifo := ch.fifo ++ [⟨p, word⟩], entered := ch.entered ++ [p] }
  else { counted with register := some ⟨p, word⟩, stalled := true }

/-- STATUS_WORD_COMPLETE (R127 to R129); words complete in position order. -/
def execStatusWordComplete (c : Fin 4) (lead : Nat) (word : BitVec 32) (s : State) : Result :=
  let k := (s.chains.get c).leadOr lead
  .next (if s.runs c .sweep (wordTime k (s.chains.get c).wordsDone) && (s.chains.get c).awaitsWord then
    let s1 := s.reachBit c (wordTime k (s.chains.get c).wordsDone)
    s1.setChain c { (s1.chains.get c).wordDone (s1.marked c (s.chains.get c).wordsDone) word with lead := some k }
  else s)

/-- SWEEP_COMPLETE (R127 to R129, R151). -/
def execSweepComplete (c : Fin 4) (s : State) : Result :=
  .next (if s.running && (s.chains.get c).state = .sweep && (s.chains.get c).finalArrived &&
      (s.chains.get c).register.isNone then
    ((s.sweepReport c (s.chains.get c).entered).setChain c (s.chains.get c).finish).chainRequest c
      .chainTimeout .withdraw
  else s)

/-! ### DETAIL and TEST -/

/-- What a completed DETAIL does: the words are handed on when the select echo is equal, and it fails otherwise (R131). -/
def State.endDetail (c : Fin 4) (echo : BitVec 32) (words : DetailWords) (s : State) : State :=
  let ch := s.chains.get c
  ((s.setChain c ch.finish).detailOutcome (if echo = selectWord ch.sentPosition then some words else none)).chainRequest c
    .chainTimeout .withdraw

/-- DETAIL_COMPLETE (R130, R131). -/
def execDetailComplete (c : Fin 4) (lead : Nat) (echo : BitVec 32) (words : DetailWords) (s : State) : Result :=
  .next (if s.runs c .detail (lead + 160) then (s.reachBit c (lead + 160)).endDetail c echo words else s)

/-- CHAIN_INTEGRITY raised or withdrawn by a TEST (R133). -/
def integrityAction (threshold mismatches : Nat) : FaultAction :=
  if threshold < mismatches then .raise (some (BitVec.ofNat 16 mismatches)) else .withdraw

/-- What a completed TEST does (R133). -/
def State.endTest (c : Fin 4) (mismatches : Nat) (s : State) : State :=
  let s1 := s.setChain c { (s.chains.get c).finish with lastMismatch := some mismatches }
  (s1.chainRequest c .chainIntegrity (integrityAction s1.options.testThreshold mismatches)).chainRequest c
    .chainTimeout .withdraw

/-- TEST_COMPLETE (R132, R133). -/
def execTestComplete (c : Fin 4) (lead : Nat) (returned : BitVec 254) (s : State) : Result :=
  .next (if s.runs c .test (lead + 254) then (s.reachBit c (lead + 254)).endTest c (mismatchCount returned) else s)

/-! ### Timeout (R134) -/

/-- An operation that may time out: not a census, its shift clock running, its final bit not arrived (R134). -/
def Chain.mayTimeOut (ch : Chain) : Bool := timedOperation ch.state && !ch.stalled && !ch.finalArrived

/-- What the abort does, in the order of R134. -/
def State.abortOperation (c : Fin 4) (s : State) : State :=
  let ch := s.chains.get c
  let s1 := if ch.state = .sweep then s.sweepReport c ch.entered else s
  let s2 := if ch.state = .detail || ch.pend.detail then s1.detailOutcome none else s1
  let s3 := s2.chainRequest c .chainTimeout (.raise (some (BitVec.ofNat 16 (timeoutCode ch.state))))
  s3.setChain c ch.clearDetail.finish.postCensus

/-- OPERATION_TIMEOUT (R134). -/
def execOperationTimeout (c : Fin 4) (s : State) : Result :=
  .next (if s.running && (s.chains.get c).mayTimeOut then
    (s.reachBit c (s.chains.get c).bitLimit).abortOperation c
  else s)

/-! ### Interval expiries (R121) -/

/-- SWEEP_PERIOD_EXPIRY (R121). -/
def execSweepPeriodExpiry (c : Fin 4) (s : State) : Result :=
  .next (match (s.chains.get c).sweepDue with
    | none => s
    | some d =>
      let s1 := s.arriveAt d
      s1.setChain c { (s1.chains.get c).postSweep with
        sweepDue := some (d + s1.options.sweepSeconds * Config.second) })

/-- TEST_PERIOD_EXPIRY (R121). -/
def execTestPeriodExpiry (c : Fin 4) (s : State) : Result :=
  .next (match (s.chains.get c).testDue with
    | none => s
    | some d =>
      let s1 := s.arriveAt d
      s1.setChain c { (s1.chains.get c).postTest with
        testDue := some (d + s1.options.testSeconds * Config.second) })

/-- CENSUS_RETRY_EXPIRY (R121): the interval runs only while the chain is DOWN. -/
def execCensusRetryExpiry (c : Fin 4) (s : State) : Result :=
  .next (match (s.chains.get c).retryDue with
    | none => s
    | some d =>
      let s1 := s.arriveAt d
      s1.setChain c { (s1.chains.get c).postCensus with retryDue := some (d + Config.censusRetry) })

/-! ### PWM lines (R8, R140) -/

/-- The on-time a port takes at the start of its period: from D_c of the chain joined to it, 0 when D_c is absent (R140). -/
def State.portOnTime (s : State) (p : Fin 4) : Nat :=
  match s.chainOnPort p with
  | some c => ((s.chains.get c).duty.map onTimeOf).getD 0
  | none => 0

/-- Halves of a microsecond until the shared PWM count next equals p × 1024: none if it does now and the port's period has not yet
begun at this count, a whole period if it has (R140). -/
def State.untilPeriod (s : State) (p : Fin 4) : Nat :=
  let wait := (p.val * Config.pwmStagger + Config.pwmPeriod - s.pwmCount) % Config.pwmPeriod / Config.pwmPerHalf
  if wait = 0 && (s.ports.get p).periodStart = some s.timeBase then Config.pwmPeriod / Config.pwmPerHalf else wait

/-- A port's period begins: the line is active when its on-time is above 0 (R140). -/
def State.beginPeriod (p : Fin 4) (s : State) : State :=
  s.setPort p { s.ports.get p with
    onTime := s.portOnTime p, lineActive := 0 < s.portOnTime p, periodStart := some s.timeBase }

/-- PWM_PERIOD_START (R140), on a port in use. -/
def execPwmPeriodStart (p : Fin 4) (s : State) : Result :=
  .next (if s.running && (s.chainOnPort p).isSome then (s.passHalves (s.untilPeriod p)).beginPeriod p else s)

/-- PWM_ON_TIME_END (R140): on-time counts after the period's start, while the line is active. -/
def execPwmOnTimeEnd (p : Fin 4) (s : State) : Result :=
  .next (match (s.ports.get p).periodStart with
    | none => s
    | some t =>
      if (s.ports.get p).lineActive then
        let s1 := s.arriveAt (t + (s.ports.get p).onTime / Config.pwmPerMicro)
        s1.setPort p { s1.ports.get p with lineActive := false }
      else s)

end Sys2Proof.Machine
end

