-- ==== Sys2Proof/Machine/Collector.lean ====
section
/-! DEFINITION. The status collector: COLLECTOR_TAKE (8.1 to 8.5). -/

namespace Sys2Proof.Machine

open Sys2Proof

/-- The chain whose FIFO the collector takes from: the first non-empty one from the pointer on (R145). -/
def State.nextChain (s : State) : Option (Fin 4) :=
  [0, 1, 2, 3].findSome? fun k : Fin 4 =>
    if (s.chains.get (s.collector.pointer + k)).fifo.isEmpty then none else some (s.collector.pointer + k)

/-- A chain after the take of its oldest word: a word that waits in the register enters the FIFO at once, and the shift
clock is no longer stopped (R128, R145). -/
def Chain.taken (ch : Chain) : Chain :=
  match ch.register with
  | none => { ch with fifo := ch.fifo.tail }
  | some w =>
    { ch with fifo := ch.fifo.tail ++ [w], register := none, entered := ch.entered ++ [w.position], stalled := false }

/-- A condition's request and its membership of the reported set after a word: raised when the cause begins, withdrawn when
it ends (R148). -/
def conditionAction (cause reported : Bool) (detail : Nat) : Option FaultAction :=
  if cause && !reported then some (.raise (some (BitVec.ofNat 16 detail)))
  else if !cause && reported then some .withdraw
  else none

/-- The detail of TILE_SUPPLY (R148). -/
def supplyDetail (r : Readings) : Nat := (if r.driverSupplyOk then 0 else 1) + (if r.tileOk then 0 else 2)

/-- The tile's temperature in °C (R143). -/
def celsius (r : Readings) : Int := (r.temperature : Int) - 40

/-- THERMAL_CRIT's request after a word (R149). -/
def critAction (o : Options) (r : Readings) (reported : Bool) : Option FaultAction :=
  if (o.crit : Int) ≤ celsius r then
    if reported then none else some (.raise (some (BitVec.ofNat 16 r.temperature)))
  else if celsius r < (o.warn : Int) && reported then some .withdraw
  else none

/-- The warn-clear run after a word (R150). -/
def warnRun (o : Options) (r : Readings) (run : Nat) : Nat :=
  if celsius r < (o.warn : Int) - 5 then satSucc 2 run else 0

/-- THERMAL_WARN's request after a word (R150). -/
def warnAction (o : Options) (r : Readings) (run : Nat) (reported : Bool) : Option FaultAction :=
  if (o.warn : Int) ≤ celsius r then
    if reported then none else some (.raise (some (BitVec.ofNat 16 r.temperature)))
  else if celsius r < (o.warn : Int) - 5 && run = 1 && reported then some .withdraw
  else none

/-- Whether a condition is in the reported set after its request. -/
def stillReported (reported : Bool) : Option FaultAction → Bool
  | some (.raise _) => true
  | some .withdraw => false
  | none => reported

/-- The five requests a word may give, in the order of evaluation (R148 to R150). -/
def wordActions (o : Options) (r : Readings) (t : TileRecord) : List (FaultKind × Option FaultAction) :=
  [(.tileOpen, conditionAction (0 < r.openCount) t.reported.tileOpen r.openCount),
   (.tileShort, conditionAction (0 < r.shortCount) t.reported.tileShort r.shortCount),
   (.tileSupply, conditionAction (!r.driverSupplyOk || !r.tileOk) t.reported.tileSupply (supplyDetail r)),
   (.thermalCrit, critAction o r t.reported.thermalCrit),
   (.thermalWarn, warnAction o r t.warnClear t.reported.thermalWarn)]

/-- The tile record after a handled word (R147 to R150). -/
def TileRecord.handled (o : Options) (r : Readings) (t : TileRecord) : TileRecord :=
  { t with
    readings := some r
    sweepsSince := 0
    warnClear := warnRun o r t.warnClear
    reported :=
      { tileOpen := stillReported t.reported.tileOpen
          (conditionAction (0 < r.openCount) t.reported.tileOpen r.openCount)
        tileShort := stillReported t.reported.tileShort
          (conditionAction (0 < r.shortCount) t.reported.tileShort r.shortCount)
        tileSupply := stillReported t.reported.tileSupply
          (conditionAction (!r.driverSupplyOk || !r.tileOk) t.reported.tileSupply (supplyDetail r))
        thermalWarn := stillReported t.reported.thermalWarn (warnAction o r t.warnClear t.reported.thermalWarn)
        thermalCrit := stillReported t.reported.thermalCrit (critAction o r t.reported.thermalCrit) } }

/-- The requests of a word for a tile (R148 to R150). -/
def wordRequests (o : Options) (r : Readings) (i : Fin 64) (t : TileRecord) :
    List (FaultKind × Source × FaultAction) :=
  (wordActions o r t).filterMap fun a => a.2.map fun x => (a.1, BitVec.ofNat 6 i.val, x)

/-- A word handled: discarded when its record is absent, taken into the record otherwise (R147). -/
def State.handleWord (c : Fin 4) (w : StatusWord) (s : State) : State :=
  if h : w.position < 16 then
    let i := tileIndex c ⟨w.position, h⟩
    let t := s.collector.tiles.get i
    if t.marked then
      (s.setTile i (t.handled s.options (readingsOf w.word))).requestAll
        (wordRequests s.options (readingsOf w.word) i t)
    else s
  else s

/-- The earliest count at which the collector is free again after its last take (R145). -/
def Collector.freeAt (k : Collector) : Nat :=
  match k.lastTake with
  | none => 0
  | some t => t + Config.collectorGap

/-- A take from a chain whose FIFO holds a word (R145, R147). -/
def State.take (c : Fin 4) (s : State) : State :=
  let ch := s.chains.get c
  let s1 := s.setChain c ch.taken
  let s2 := { s1 with collector := { s1.collector with pointer := c + 1, lastTake := some s.timeBase } }
  match ch.fifo with
  | [] => s2
  | w :: _ => s2.handleWord c w

/-- COLLECTOR_TAKE (R145, R147): the collector is free once its outgoing request list is empty. -/
def execCollectorTake (s : State) : Result :=
  .next (if s.running && !s.collectorWaits then
    match s.nextChain with
    | some c => (s.arriveAt s.collector.freeAt).take c
    | none => s
  else s)

end Sys2Proof.Machine
end

