-- ==== Sys2Proof/Machine/Faults.lean ====
section
/-! DEFINITION. The fault table's events: FAULT_RAISE, FAULT_WITHDRAW and FAULT_CLEARED_AGING (Chapter 9). -/

namespace Sys2Proof.Machine

open Sys2Proof

/-- FAULT_RAISE (R166 to R169, R173, R174). The table takes requests from the end of reset onward. -/
def execFaultRaise (kind : FaultKind) (source : Source) (detail : Option Detail) (s : State) : Result :=
  .next (if s.startUp.phase = .resetHeld then s else s.takeRequest kind source (.raise detail))

/-- FAULT_WITHDRAW (R166, R170). No block withdraws CONFIG_DEFAULTED (R165). -/
def execFaultWithdraw (kind : FaultKind) (source : Source) (s : State) : Result :=
  .next (if s.startUp.phase = .resetHeld || kind = .configDefaulted then s
    else s.takeRequest kind source .withdraw)

/-- A record at an expiry: a CLEARED one ages by 1 and is removed at 120; an ACTIVE one is passed over (R171). -/
def FaultRecord.aged (r : FaultRecord) : Option FaultRecord :=
  match r.state with
  | .active => some r
  | .cleared => if Config.removalAge ≤ r.clearedAge + 1 then none else some { r with clearedAge := r.clearedAge + 1 }

/-- The table after an expiry; the overflow flag is cleared when removals bring the count to 20 or fewer (R171, R175). -/
def FaultTable.aged (t : FaultTable) : FaultTable :=
  let kept := t.records.filterMap FaultRecord.aged
  { t with records := kept, overflow := t.overflow && !(kept.length ≤ Config.overflowRelease) }

/-- FAULT_CLEARED_AGING (R171). -/
def execFaultClearedAging (s : State) : Result :=
  .next (match s.faults.agingDue with
    | none => s
    | some d =>
      let s1 := s.arriveAt d
      s1.setFaults { s1.faults.aged with agingDue := some (d + Config.quarterSecond) })

end Sys2Proof.Machine
end

