-- ==== Sys2Proof/Machine/Line.lean ====
section
/-! DEFINITION. The line controller's own events: LINE_IDLE, LINE_LEAVES_IDLE, STUCK_DOMINANT, FRAME_START,
ARBITRATION_LOSS, BIT_ERROR, FRAME_SENT, FRAME_DISCARD, CLASH_QUIET_EXPIRY and BEACON_BUILD (Chapter 3). -/

namespace Sys2Proof.Machine

open Sys2Proof

/-- The line is idle, and the station has not itself begun to send on it (R33, R34). -/
def State.lineIdle (s : State) : Bool := s.wire.idle && !s.line.sending

/-- The station is ready to start (R34). -/
def LineControl.ready (l : LineControl) : Bool :=
  !l.listenOnly && !l.suspended && (l.flight.isSome || !l.queue.isEmpty)

/-- The frame in flight at a start: the one there is, or the front of the waiting order with abort count 0 (R34). -/
def LineControl.launch (l : LineControl) : LineControl :=
  match l.flight, l.queue with
  | none, f :: rest => { l with flight := some ⟨f, 0⟩, queue := rest }
  | _, _ => l

/-- The line becomes idle: an incomplete frame in assembly is counted bad (R41), and a suspension ends (R39). -/
def LineControl.becomeIdle (incomplete : Bool) (l : LineControl) : LineControl :=
  let l1 := if incomplete then l.countBad else l
  { l1 with suspended := false }

/-- The line idle after its twelfth recessive sample: the assembler takes characters again (R33, R41). -/
def LineSamples.becomeIdle (w : LineSamples) : LineSamples := { w with quiet := false, idle := true, assembler := .empty }

/-- The line becomes idle with these samples, the last of them the twelfth recessive one (R33, R39, R41). -/
def State.becomeIdle (w : LineSamples) (s : State) : State :=
  let s1 := (s.setLine (s.line.becomeIdle w.assembler.holdsFrame)).setWire w.becomeIdle
  if s.line.suspended then s1.request .lineStuck 0 .withdraw else s1

/-- LINE_IDLE (R33, R39, R41): the twelfth recessive sample; the samples that are wanting to it are taken first. A good frame that
they make complete, or that is complete, is dealt with before it (log entry 8). -/
def execLineIdle (s : State) : Result :=
  let w := s.wire.toTwelfth s.bitTime
  .next (if s.running && !s.wire.idle && !s.line.sending && !w.assembler.holdsGood then
    (s.arriveAt w.sampledAt).becomeIdle w
  else s)

/-- LINE_LEAVES_IDLE (R33, R41): the first dominant sample, in the middle of a start bit. -/
def execLineLeavesIdle (s : State) : Result :=
  .next (if s.running && s.lineIdle then
    s.setWire { s.wire.sample s.bitTime s.timeBase .dominant with quiet := false }
  else s)

/-- The samples that bring the stuck count to 65: the run that the count holds goes on, or, when the run that stands at 65 has been
dealt with, a recessive sample ends it and a fresh one follows, since a run passes 64 once (R39; log entry 5). -/
def LineSamples.toStuck (w : LineSamples) : List Level :=
  if w.stuck then .recessive :: List.replicate Config.stuckBits .dominant
  else List.replicate (Config.stuckBits - w.stuckCount) .dominant

/-- The line after those samples (R39). -/
def LineSamples.becomeStuck (bitTime : Nat) (w : LineSamples) : LineSamples :=
  { w.readOn bitTime w.toStuck with quiet := false, stuck := true }

/-- The line is stuck with these samples, the last of them the 65th dominant one of a run (R39). -/
def State.stick (w : LineSamples) (s : State) : State :=
  ((s.setLine { s.line with suspended := true }).setWire w).request .lineStuck 0 (.raise none)

/-- STUCK_DOMINANT (R39): the 65th dominant sample of a run; the samples that are wanting to it are taken first. -/
def execStuckDominant (s : State) : Result :=
  let w := s.wire.becomeStuck s.bitTime
  .next (if s.running && !s.line.sending then (s.arriveAt w.sampledAt).stick w else s)

/-- FRAME_START (R34): on an idle line, or in step with another station's start edge on it. The station drives its start bit from now
on; a character begins at that bit when its middle reads dominant (R41). DESIGN CHOICE (log entry 27): after a bit error on an own
start bit the line is still idle, and the station may start again at once, even before the aborted bit ends, whose driving then gives way
to the new start bit. -/
def execFrameStart (s : State) : Result :=
  .next (if s.running && s.lineIdle && s.line.ready then
    (s.setLine { s.line.launch with sending := true, startedAt := s.timeBase, drivesUntil := none }).setWire
      (LineSamples.atStart s.timeBase)
  else s)

/-! ### Mismatches of the own frame (R36, R37) -/

/-- Bit `k` of a frame is a data bit of its two key characters, which are bits 0..9 and 10..19 (R32, R35, R36). -/
def keyDataBit (k : Nat) : Bool := (1 ≤ k && k ≤ 8) || (11 ≤ k && k ≤ 18)

/-- A mismatch at bit `k` of the frame in flight is an arbitration loss: a data bit of the key, sent recessive (R36). -/
def LineControl.losable (l : LineControl) (k : Nat) : Bool :=
  keyDataBit k && l.sentLevels[k]? = some .recessive

/-- A mismatch at bit `k` of the frame in flight is a bit error: it is a bit of the frame, and the mismatch no arbitration loss
(R37). -/
def LineControl.errable (l : LineControl) (k : Nat) : Bool := k < l.sentLevels.length && !l.losable k

/-- The first bit of the own frame, from the present count on, at which a mismatch is of the given kind (log entry 22). -/
def State.nextBit (kind : LineControl → Nat → Bool) (s : State) : Option Nat :=
  (List.range s.line.sentLevels.length).find? fun k => s.timeBase ≤ s.bitMiddle k && kind s.line k

/-- Bit `k` of the own frame reads at the given level, the bits before it as sent (R32, R36, R37). -/
def State.misread (k : Nat) (level : Level) (s : State) : State :=
  s.setWire (s.ownRead (s.line.sentLevels.take k ++ [level]))

/-- The line controller after an arbitration loss: the bit was sent recessive, so it drives the line no more (R36). -/
def LineControl.lose (l : LineControl) : LineControl :=
  { l with sending := false, counters := { l.counters with lost := counted l.counters.lost } }

/-- ARBITRATION_LOSS (R36): a data bit of the key, sent recessive, reads back dominant at its middle. -/
def execArbitrationLoss (s : State) : Result :=
  .next (if s.running && s.line.sending then
    match s.nextBit LineControl.losable with
    | some k => ((s.arriveAt (s.bitMiddle k)).misread k .dominant).setLine s.line.lose
    | none => s
  else s)

/-- The end of bit `k` of the own frame when it is sent dominant, up to which the station drives it: it stops from the next bit
(R37). -/
def State.endOfDominant (s : State) (k : Nat) : Option Nat :=
  if s.line.sentLevels[k]? = some .dominant then some (s.line.startedAt + (k + 1) * s.bitTime) else none

/-- The line controller after an abort of its frame in flight, before a drop; it drives the line up to `stop` (R37). -/
def LineControl.abort (f : Flight) (stop : Option Nat) (l : LineControl) : LineControl :=
  { l with
    sending := false
    drivesUntil := stop
    cleanRun := 0
    flight := some { f with aborts := f.aborts + 1 }
    counters := { l.counters with aborts := counted l.counters.aborts } }

/-- A frame dropped at its third abort (R37). -/
def LineControl.dropFlight (l : LineControl) : LineControl :=
  { l with flight := none, counters := { l.counters with drops := counted l.counters.drops } }

/-- An abort, and the drop and raise at the third (R37). -/
def State.abortFlight (f : Flight) (stop : Option Nat) (s : State) : State :=
  if Config.abortLimit ≤ f.aborts + 1 then
    (s.setLine (s.line.abort f stop).dropFlight).request .lineError 0
      (.raise (some (BitVec.ofNat 16 f.frame.kind.code)))
  else s.setLine (s.line.abort f stop)

/-- The level that bit `k` of the frame in flight is not sent at. -/
def LineControl.otherLevel (l : LineControl) (k : Nat) : Level := (l.sentLevels.getD k .recessive).opposite

/-- BIT_ERROR (R37): a bit reads back other than sent at its middle, and the mismatch is no arbitration loss. -/
def execBitError (s : State) : Result :=
  .next (if s.running && s.line.sending then
    match s.line.flight, s.nextBit LineControl.errable with
    | some f, some k =>
      ((s.arriveAt (s.bitMiddle k)).misread k (s.line.otherLevel k)).abortFlight f (s.endOfDominant k)
    | _, _ => s
  else s)

/-- The line controller after its frame in flight is sent (R35, R38, R42). -/
def LineControl.finishSend (l : LineControl) : LineControl :=
  { l with
    flight := none
    sending := false
    cleanRun := satSucc Config.cleanRunTop l.cleanRun
    counters := { l.counters with sent := counted l.counters.sent } }

/-- The line after the own frame's last stop bit: no station drives it any more, and the assembler is empty again (R41, R42). -/
def State.sentSamples (s : State) : LineSamples :=
  { s.ownRead s.line.sentLevels with quiet := true, assembler := .empty }

/-- A frame sent, and the withdraw when the clean-send run rises to 16 (R35, R38). -/
def State.finishSend (s : State) : State :=
  let s1 := s.setLine s.line.finishSend
  if s.line.cleanRun + 1 = Config.cleanRunTop then s1.request .lineError 0 .withdraw else s1

/-- FRAME_SENT (R35). -/
def execFrameSent (s : State) : Result :=
  .next (if s.running && s.line.sending then
    match s.line.flight with
    | some f =>
      ((s.arriveAt (s.line.startedAt + f.frame.sendTime s.bitTime)).setWire s.sentSamples).finishSend
    | none => s
  else s)

/-- FRAME_DISCARD (R41, R42). -/
def execFrameDiscard (cause : DiscardCause) (s : State) : Result := .next (s.discard cause)

/-- CLASH_QUIET_EXPIRY (R44). -/
def execClashQuietExpiry (s : State) : Result :=
  .next (match s.line.clashEnd with
    | none => s
    | some t =>
      let s1 := s.arriveAt t
      (s1.setLine { s1.line with clashEnd := none }).request .addressClash 0 .withdraw)

/-- The fields of a beacon built now (R55, R180). -/
def State.beaconFields (s : State) : BeaconWire :=
  { mode := octet s.settling.mode.code
    yOut := BitVec.ofNat 16 s.settling.yOut
    ambient := BitVec.ofNat 16 (codeOrAbsent s.ownAmbient)
    capLevel := BitVec.ofNat 16 (codeOrAbsent (s.cap.record.map CapRecord.level))
    capRemaining := BitVec.ofNat 16 ((s.cap.record.map CapRecord.remaining).getD 0)
    activeCount := octet s.faults.activeCount
    summary := summaryOctet s.faults.highest s.faults.overflow
    seq := octet s.line.seq }

/-- The BEACON frame built now. -/
def State.beaconFrame (s : State) : Frame :=
  { urgency := .routine, sender := s.ownAddress, kind := .beacon, payload := beaconOctets s.beaconFields }

/-- A beacon built at the slot that falls at `d` and offered; the sequence number rises by 1 mod 256 (R55). -/
def State.buildBeacon (d : Nat) (s : State) : State :=
  let f := s.beaconFrame
  (s.setLine { s.line with seq := (s.line.seq + 1) % 256, beaconDue := some (d + Config.second) }).offerFrame f

/-- BEACON_BUILD (R55). -/
def execBeaconBuild (s : State) : Result :=
  .next (match s.line.beaconDue with
    | none => s
    | some d => if s.line.listenOnly then s else (s.arriveAt d).buildBeacon d)

end Sys2Proof.Machine
end

