-- ==== Sys2Proof/Machine/Neighbours.lean ====
section
/-! DEFINITION. The neighbour table: BEACON_RECEIVED and NEIGHBOUR_AGING (Chapter 4). -/

namespace Sys2Proof.Machine

open Sys2Proof

/-- The cap fields of a record: a remaining time of 0 makes both absent (R68). -/
def publishedCap (level remaining : Nat) : Option (Nat × Nat) :=
  if remaining = 0 then none else some (min level 511, min remaining 14400)

/-- The highest severity of a record, for an active count already corrected (R68). -/
def publishedSeverity (count code : Nat) : Option Severity :=
  if count = 0 then none else some ((Severity.ofCode code).getD .minor)

/-- The record a beacon makes of its sender, every published value corrected (R66, R68); none when its mode code names
none of the four modes. -/
def neighbourOf (sender : Addr) (b : BeaconWire) : Option Neighbour :=
  (Mode.ofCode b.mode.toNat).map fun mode =>
    { sender := sender
      mode := mode
      yOut := min b.yOut.toNat 511
      ambient := if b.ambient.toNat ≤ 671 then some b.ambient.toNat else none
      cap := publishedCap b.capLevel.toNat b.capRemaining.toNat
      activeCount := min b.activeCount.toNat 24
      severity := publishedSeverity (min b.activeCount.toNat 24) (b.summary.extractLsb' 0 2).toNat
      overflow := b.summary.getLsbD 7
      seq := b.seq.toNat
      missed := 0
      age := 0
      freshness := .fresh }

/-- The gap in a sender's sequence numbers (R67). -/
def sequenceGap (received last : Nat) : Nat := (received + 255 - last % 256) % 256

/-- A record updated by the one the beacon makes: the gap is added to the missed-beacon count (R67). -/
def Neighbour.update (old new : Neighbour) : Neighbour :=
  { new with missed := min (old.missed + sequenceGap new.seq old.seq) 255 }

/-- What stands in a slot after a beacon is admitted to it (R66, R67). -/
def admitted (old : Option Neighbour) (new : Neighbour) : Neighbour :=
  match old with
  | none => new
  | some o => o.update new

/-- A beacon admitted to its slot, or ignored (R65). -/
def State.takeBeacon (sender : Addr) (b : BeaconWire) (s : State) : State :=
  if sender = s.ownAddress then s
  else
    match translate s.neighbours.windows sender, neighbourOf sender b with
    | some i, some n => s.setSlot i (some (admitted (s.neighbours.slots.get i) n))
    | _, _ => s

/-- BEACON_RECEIVED (R42 to R44, R65). -/
def execBeaconReceived (sender : Addr) (b : BeaconWire) (s : State) : Result :=
  .next (s.hear (Frame.octets ⟨.routine, sender, .beacon, beaconOctets b⟩) 1 sender (State.takeBeacon sender b))

/-- The freshness of an age (R70). -/
def freshnessOf (staleSeconds age : Nat) : Freshness := if age ≤ 4 * staleSeconds then .fresh else .stale

/-- A record aged by 1; none when it reaches the eviction limit (R69 to R71). -/
def Neighbour.aged (o : Options) (n : Neighbour) : Option Neighbour :=
  if 4 * o.evictSeconds ≤ n.age + 1 then none
  else some { n with age := n.age + 1, freshness := freshnessOf o.staleSeconds (n.age + 1) }

/-- NEIGHBOUR_AGING (R69). -/
def execNeighbourAging (s : State) : Result :=
  .next (match s.neighbours.agingDue with
    | none => s
    | some d =>
      let s1 := s.arriveAt d
      { s1 with neighbours := { s1.neighbours with
          slots := s1.neighbours.slots.map fun n => n.bind (Neighbour.aged s1.options)
          agingDue := some (d + Config.quarterSecond) } })

end Sys2Proof.Machine
end

