-- ==== Sys2Proof/Machine/Queries.lean ====
section
/-! DEFINITION. The query responder: QUERY_BAD_ITEM, FAULTS, TILE, TILE_DETAIL, VIEW, LEVELS, CHAIN, LINE and
DEFERRED_READY_AGING (Chapter 10), with the data layouts of R214. -/

namespace Sys2Proof.Machine

open Sys2Proof

/-! ### Data of the replies (R214) -/

/-- An entry of a FAULTS page: four octets and the detail, with two bits of the page header above the source. -/
def faultEntry (header : Nat) : Option FaultRecord → List Octet
  | none => [0, octet (64 * header), 0, 0, 0, 0]
  | some r =>
    [octet (faultCode r.kind + if r.state = .cleared then 128 else 0), octet (64 * header + r.source.toNat),
     octet r.count, octet r.clearedAge] ++ twoOctets (r.detail.map BitVec.toNat |>.getD 0)

/-- A page of the fault table: three entries, and the active count and overflow flag in the entries' header bits. -/
def faultsData (t : FaultTable) (page : Nat) : List Octet :=
  faultEntry (t.activeCount / 8 % 4) t.records[3 * page]? ++
    faultEntry (t.activeCount / 2 % 4) t.records[3 * page + 1]? ++
    faultEntry (2 * (t.activeCount % 2) + if t.overflow then 1 else 0) t.records[3 * page + 2]?

/-- A flag as a bit of a given weight. -/
def flagBit (weight : Nat) (b : Bool) : Nat := if b then weight else 0

def tileFlags (t : TileRecord) : Nat :=
  (match t.readings with
    | some r => flagBit 1 r.driverSupplyOk + flagBit 2 r.tileOk + 128
    | none => 0) + 16 * t.warnClear

def reportedBits (r : ReportedSet) : Nat :=
  flagBit 1 r.tileOpen + flagBit 2 r.tileShort + flagBit 4 r.tileSupply + flagBit 8 r.thermalWarn +
    flagBit 16 r.thermalCrit

def tileData (t : TileRecord) : List Octet :=
  (match t.readings with
    | some r => [octet (16 * r.openCount + r.shortCount), octet r.temperature]
    | none => [0, 0]) ++
    [octet (tileFlags t), octet t.sweepsSince, octet (reportedBits t.reported)]

def detailData (w : DetailWords) : List Octet :=
  fourOctets w.stringMap ++ fourOctets w.temperatures ++ fourOctets w.driverSupply ++ fourOctets w.errorCounters

def recordData (n : Neighbour) : List Octet :=
  [octet 2] ++ twoOctets n.sender.toNat ++ [octet (n.mode.code + flagBit 128 (n.freshness = .stale))] ++
    twoOctets n.yOut ++ twoOctets (codeOrAbsent n.ambient) ++ twoOctets (codeOrAbsent (n.cap.map Prod.fst)) ++
    twoOctets ((n.cap.map Prod.snd).getD 0) ++ [octet n.activeCount, summaryOctet n.severity n.overflow] ++
    [octet n.seq, octet n.missed] ++ twoOctets n.age

/-- A VIEW answer: EMPTY, OWN or RECORD (R189). -/
def viewData (t : NeighbourTable) (i : Fin 32) : List Octet :=
  match t.slots.get i with
  | some n => recordData n
  | none => if t.ownSlot = some i then [octet 1] else [octet 0]

/-- 10-bit codes packed back to back, most significant bit first, as one number. -/
def packCodes (codes : List (Option Nat)) : Nat := codes.foldl (fun n c => n * 1024 + codeOrAbsent c % 1024) 0

/-- A number as `k` octets, most significant first. -/
def octetsOf : Nat → Nat → List Octet
  | 0, _ => []
  | k + 1, n => octetsOf k (n / 256) ++ [octet n]

def derateCode (derate : Nat) : Nat := if derate = 0 then 0 else if derate = 16 then 1 else 2

def levelsData (s : State) : List Octet :=
  let g := s.settling.stage
  octetsOf 10 (packCodes
      [g.aOwn, g.aPool, g.yCeil, g.capLevel, g.upstream, g.downstream, g.yTarget, some g.yOut]) ++
    [octet (g.mode.code + 4 * derateCode g.derate), octet ((s.neighbours.ownSlot.map Fin.val).getD 0xFF)] ++
    twoOctets ((s.cap.record.map fun r => r.source.toNat).getD 0) ++
    twoOctets ((s.cap.record.map CapRecord.remaining).getD 0)

def pendingBits (p : PendingSet) : Nat :=
  flagBit 1 p.census + flagBit 2 p.brightness + flagBit 4 p.detail + flagBit 8 p.sweep + flagBit 16 p.test

/-- The physical port joined to a chain; absent for an OFF chain (R191). -/
def State.portOf (s : State) (c : Fin 4) : Option (Fin 4) :=
  if s.used c then some (s.options.crossbar.get c) else none

def chainData (s : State) (c : Fin 4) : List Octet :=
  let ch := s.chains.get c
  [octet ch.state.code, octet (((s.portOf c).map Fin.val).getD 0xFF), octet (ch.census.getD 0xFF),
   octet (ch.lastMismatch.getD 0xFF), octet ch.echoMiss, octet (pendingBits ch.pend + flagBit 128 ch.duty.isSome)] ++
    twoOctets (ch.duty.getD 0)

def lineData (s : State) : List Octet :=
  let k := s.line.counters
  twoOctets k.sent ++ twoOctets k.lost ++ twoOctets k.aborts ++ twoOctets k.drops ++ twoOctets k.good ++
    twoOctets k.bad ++ [octet (startCauseCode s.startUp.startCause + flagBit 128 s.line.listenOnly)]

/-! ### Answers -/

/-- BAD_ITEM: no data, no change of the responder's state (R184). -/
def State.answerBadItem (q : Query) (s : State) : State := s.reply q .badItem []

/-- FAULTS (R187). -/
def State.answerFaults (q : Query) (s : State) : State :=
  if q.argument.toNat ≤ 7 then s.reply q .ok (faultsData s.faults q.argument.toNat) else s.answerBadItem q

/-- TILE (R188). -/
def State.answerTile (q : Query) (s : State) : State :=
  if h : q.argument.toNat < 64 then
    let t := s.collector.tiles.get ⟨q.argument.toNat, h⟩
    if t.marked then s.reply q .ok (tileData t) else s.reply q .unavailable []
  else s.answerBadItem q

/-- A first ask (R194): refused for an absent tile or a chain OFF or DOWN; otherwise a WAITING record and a detail request. -/
def State.firstAsk (q : Query) (i : Fin 64) (s : State) : State :=
  let c : Fin 4 := ⟨i.val / 16, by omega⟩
  let state := (s.chains.get c).state
  if !(s.collector.tiles.get i).marked || state = .off || state = .down then s.reply q .unavailable []
  else
    ((s.setDeferred (some { asker := q.asker, tile := i.val, state := .waiting, readyAge := 0 })).postDetail c
      (i.val % 16)).reply q .deferred []

/-- A TILE_DETAIL while a deferred record exists (R195). -/
def State.askAgain (q : Query) (d : Deferred) (s : State) : State :=
  if d.asker = q.asker && d.tile = q.argument.toNat then
    match d.state with
    | .waiting => s.reply q .deferred []
    | .ready w => (s.setDeferred none).reply q .ok (detailData w)
    | .failed => (s.setDeferred none).reply q .unavailable []
  else s.reply q .busy []

/-- TILE_DETAIL (R193 to R195). -/
def State.answerTileDetail (q : Query) (s : State) : State :=
  if h : q.argument.toNat < 64 then
    match s.responder.deferred with
    | none => s.firstAsk q ⟨q.argument.toNat, h⟩
    | some d => s.askAgain q d
  else s.answerBadItem q

/-- VIEW (R189). -/
def State.answerView (q : Query) (s : State) : State :=
  if h : q.argument.toNat < 32 then s.reply q .ok (viewData s.neighbours ⟨q.argument.toNat, h⟩)
  else s.answerBadItem q

/-- LEVELS (R190). -/
def State.answerLevels (q : Query) (s : State) : State := s.reply q .ok (levelsData s)

/-- CHAIN (R191). -/
def State.answerChain (q : Query) (s : State) : State :=
  if h : q.argument.toNat < 4 then s.reply q .ok (chainData s ⟨q.argument.toNat, h⟩) else s.answerBadItem q

/-- LINE (R192). -/
def State.answerLine (q : Query) (s : State) : State := s.reply q .ok (lineData s)

/-- A query answered by its item (R184). -/
def State.answer (q : Query) (s : State) : State :=
  match q.item.toNat with
  | 1 => s.answerFaults q
  | 2 => s.answerTile q
  | 3 => s.answerTileDetail q
  | 4 => s.answerView q
  | 5 => s.answerLevels q
  | 6 => s.answerChain q
  | 7 => s.answerLine q
  | _ => s.answerBadItem q

/-- A QUERY frame heard: an answer is made when it is handed on to this station (R42 to R44, R184). -/
def State.hearQuery (q : Query) (respond : State → State) (s : State) : State :=
  s.hear q.frameOctets 4 q.asker (fun t => if t.addressed q.target then respond t else t)

/-- QUERY_BAD_ITEM (R184); a query whose item and argument are in range is answered by its item. -/
def execQueryBadItem (asker : Addr) (target : BitVec 16) (item argument tag : Octet) (s : State) : Result :=
  let q : Query := ⟨asker, target, item, argument, tag⟩
  .next (s.hearQuery q (State.answer q))

/-- FAULTS (R187). -/
def execFaults (asker : Addr) (target : BitVec 16) (argument tag : Octet) (s : State) : Result :=
  let q : Query := ⟨asker, target, 1, argument, tag⟩
  .next (s.hearQuery q (State.answerFaults q))

/-- TILE (R188). -/
def execTile (asker : Addr) (target : BitVec 16) (argument tag : Octet) (s : State) : Result :=
  let q : Query := ⟨asker, target, 2, argument, tag⟩
  .next (s.hearQuery q (State.answerTile q))

/-- TILE_DETAIL (R194). -/
def execTileDetail (asker : Addr) (target : BitVec 16) (argument tag : Octet) (s : State) : Result :=
  let q : Query := ⟨asker, target, 3, argument, tag⟩
  .next (s.hearQuery q (State.answerTileDetail q))

/-- VIEW (R189). -/
def execView (asker : Addr) (target : BitVec 16) (argument tag : Octet) (s : State) : Result :=
  let q : Query := ⟨asker, target, 4, argument, tag⟩
  .next (s.hearQuery q (State.answerView q))

/-- LEVELS (R190). -/
def execLevels (asker : Addr) (target : BitVec 16) (argument tag : Octet) (s : State) : Result :=
  let q : Query := ⟨asker, target, 5, argument, tag⟩
  .next (s.hearQuery q (State.answerLevels q))

/-- CHAIN (R191). -/
def execChain (asker : Addr) (target : BitVec 16) (argument tag : Octet) (s : State) : Result :=
  let q : Query := ⟨asker, target, 6, argument, tag⟩
  .next (s.hearQuery q (State.answerChain q))

/-- LINE (R192). -/
def execLine (asker : Addr) (target : BitVec 16) (argument tag : Octet) (s : State) : Result :=
  let q : Query := ⟨asker, target, 7, argument, tag⟩
  .next (s.hearQuery q (State.answerLine q))

/-- A deferred record at an expiry: READY and FAILED age by 1 and are freed at 32 (R197). -/
def Deferred.aged (d : Deferred) : Option Deferred :=
  if d.state = .waiting then some d
  else if Config.readyFreeAge ≤ d.readyAge + 1 then none
  else some { d with readyAge := d.readyAge + 1 }

/-- DEFERRED_READY_AGING (R197). -/
def execDeferredReadyAging (s : State) : Result :=
  .next (match s.responder.agingDue with
    | none => s
    | some d =>
      let s1 := s.arriveAt d
      { s1 with responder := ⟨s1.responder.deferred.bind Deferred.aged, some (d + Config.quarterSecond)⟩ })

end Sys2Proof.Machine
end

