-- ==== Sys2Proof/Machine/Reception.lean ====
section
/-! DEFINITION. FRAME_RECEIVED: a good frame given whole, as it stands on the line (R42 to R44, R213). -/

namespace Sys2Proof.Machine

open Sys2Proof

/-- A frame that R44 does not hold back, handed on by its kind (R43). A FAULT NOTICE, a REPLY, an unused kind, a payload
shorter than its kind's fixed part and a QUERY for another station are taken no further. -/
def State.handOn (kind : BitVec 4) (sender : Addr) (payload : List Octet) (s : State) : State :=
  match kind.toNat with
  | 1 =>
    match beaconOf payload with
    | some b => s.takeBeacon sender b
    | none => s
  | 3 =>
    match capOf payload with
    | some (c, d) => s.takeCap sender c d.toNat
    | none => s
  | 4 =>
    match queryOf sender payload with
    | some q => if s.addressed q.target then s.answer q else s
    | none => s
  | _ => s

/-- FRAME_RECEIVED (R43). A length above 24 is a bad length, at which the frame is discarded (R41). -/
def execFrameReceived (kind : FrameClass) (sender : Addr) (payload : List Octet) (s : State) : Result :=
  let octets := frameOctets (keyOf kind.urgency sender kind.code) payload
  .next (if payload.length ≤ Config.payloadMax then
    s.hear octets kind.code sender (State.handOn kind.code sender payload)
  else s.discard (.badLength (octets.take 3)))

end Sys2Proof.Machine
end

