-- ==== Sys2Proof/Machine/Sensing.lean ====
section
/-! DEFINITION. The sensor unit: SENSOR_EDGE and GATE_WINDOW_END (Chapter 2). -/

namespace Sys2Proof.Machine

open Sys2Proof

/-- An edge taken into its window (R19). -/
def GateWindow.add (stamp : Nat) (w : GateWindow) : GateWindow :=
  { count := w.count + 1, first := some (w.first.getD stamp), last := some stamp }

/-- The span handed over at a window's end (R20). -/
def GateWindow.span (w : GateWindow) : Nat := w.last.getD 0 - w.first.getD 0

/-- The edges that have a stamp, this one among them, or none when it cannot be: edges come in the order of their stamps, and at
most four share one (R18; log entry 15). -/
def SensorChannel.share (stamp : Nat) (c : SensorChannel) : Option Nat :=
  match c.latest with
  | none => some 1
  | some (t, k) =>
    if t < stamp then some 1 else if t = stamp && k < Config.edgesPerMicro then some (k + 1) else none

/-- An edge taken by a channel whose window ends at `e`: the stamp decides the window (R19). An edge of a later window waits
for it; an edge of a window that has ended finds no window. -/
def SensorChannel.edge (gate e stamp : Nat) (c : SensorChannel) : SensorChannel :=
  match c.share stamp with
  | none => c
  | some k =>
    if e ≤ stamp then { c with early := c.early ++ [stamp], latest := some (stamp, k) }
    else if e ≤ stamp + gate then { c with window := c.window.add stamp, latest := some (stamp, k) }
    else c

/-- The outcome of a window's end for the code, the count and the state (R21 to R23). -/
def SensorChannel.judge (constant : Nat) (c : SensorChannel) : SensorChannel :=
  if 2 ≤ c.window.count then
    { c with lastCode := some (ambientCode constant (meanPeriod c.window.count c.window.span)), silent := 0, state := .valid }
  else if c.silent < 3 then
    { c with silent := c.silent + 1, state := if c.silent = 2 then .invalid else c.state }
  else c

/-- The request a window's end makes, if any (R23, R25). -/
def SensorChannel.report (c : SensorChannel) : Option FaultAction :=
  if 2 ≤ c.window.count then (if c.silent = 3 then some .withdraw else none)
  else if c.silent = 2 then some (.raise none) else none

/-- The window that begins at the end count `e` starts from empty fields, and takes the early edges that are its own (R19, R20). -/
def SensorChannel.nextWindow (gate e : Nat) (c : SensorChannel) : SensorChannel :=
  { c with
    window := (c.early.filter fun t => t < e + gate).foldl (fun w t => w.add t) GateWindow.empty
    early := c.early.filter fun t => e + gate ≤ t
    windowEnd := some (e + gate) }

/-- A channel as a source of fault records. -/
def channelSource (i : Fin 2) : Source := BitVec.ofNat 6 i.val

/-- SENSOR_EDGE (R18, R19). -/
def execSensorEdge (i : Fin 2) (stamp : Nat) (s : State) : Result :=
  .next (match (s.sensors.get i).windowEnd with
    | none => s
    | some e =>
      let s1 := s.arriveAt stamp
      s1.setSensor i ((s1.sensors.get i).edge s1.options.gate e stamp))

/-- A window's end at count `e` (R20 to R25). -/
def State.endWindow (i : Fin 2) (e : Nat) (s : State) : State :=
  let c := s.sensors.get i
  let s1 := s.setSensor i ((c.judge (s.options.sensorConstants.get i)).nextWindow s.options.gate e)
  match c.report with
  | none => s1
  | some a => s1.request .sensorSilent (channelSource i) a

/-- GATE_WINDOW_END (R20). -/
def execGateWindowEnd (i : Fin 2) (s : State) : Result :=
  .next (match (s.sensors.get i).windowEnd with
    | none => s
    | some e => (s.arriveAt e).endWindow i e)

end Sys2Proof.Machine
end

