-- ==== Sys2Proof/Machine/Settling.lean ====
section
/-! DEFINITION. The settling controller: SETTLING_PASS (Chapter 5). The stages of R78 are written as functions of the inputs
that the pass reads once (R77). -/

namespace Sys2Proof.Machine

open Sys2Proof

/-- The inputs of a pass (R77). -/
structure PassInputs where
  aOwn : Option Nat
  ownSlot : Option (Fin 32)
  slots : Table (Option Neighbour) 32
  cap : Option CapRecord
  derate : Nat
  faultDark : Bool
  deriving DecidableEq, Repr

/-- The inputs as they stand (R77). -/
def State.passInputs (s : State) : PassInputs :=
  { aOwn := s.ownAmbient
    ownSlot := s.neighbours.ownSlot
    slots := s.neighbours.slots
    cap := s.cap.record
    derate := s.faults.derate
    faultDark := s.faultDark }

/-! ### Stage 2: the pool and the ceiling -/

/-- The record of a slot number; none outside 0..31 and for an empty slot. -/
def slotRecord (slots : Table (Option Neighbour) 32) (n : Nat) : Option Neighbour :=
  (slotOf n).bind slots.get

/-- The record at a distance upstream of a slot, not below slot 0 (R93). -/
def upstreamAt (slots : Table (Option Neighbour) 32) (own : Fin 32) (d : Nat) : Option Neighbour :=
  if d ≤ own.val then slotRecord slots (own.val - d) else none

/-- The record at a distance downstream of a slot, not above slot 31 (R94). -/
def downstreamAt (slots : Table (Option Neighbour) 32) (own : Fin 32) (d : Nat) : Option Neighbour :=
  slotRecord slots (own.val + d)

/-- The distances 1 to R, nearest first. -/
def distances (radius : Nat) : List Nat := (List.range radius).map (· + 1)

/-- The ambient a record gives the pool: its own, when it is FRESH and publishes one (R79). -/
def poolAmbient (n : Option Neighbour) : Option Nat :=
  n.bind fun r => if r.freshness = .fresh then r.ambient else none

/-- The pool list (R79). -/
def poolList (o : Options) (i : PassInputs) : List Nat :=
  (match i.aOwn with
    | some a => List.replicate o.ownWeight a
    | none => []) ++
  match i.ownSlot with
  | some own =>
    (distances o.radius).filterMap (fun d => poolAmbient (upstreamAt i.slots own d)) ++
      (distances o.radius).filterMap (fun d => poolAmbient (downstreamAt i.slots own d))
  | none => []

/-- A_pool (R80). -/
def poolAmbientCode (o : Options) (i : PassInputs) : Option Nat := lowerMedian (poolList o i)

/-- Y_ceil (R81). -/
def ceiling (o : Options) (i : PassInputs) : Option Nat := (poolAmbientCode o i).map (ceilingAt o.curve)

/-! ### Stage 3: the mode -/

/-- A dark cause holds (R84). -/
def darkCause (i : PassInputs) : Bool := i.faultDark || i.cap.any CapRecord.blank

/-- The mode a pass sets (R83). -/
def modeOf (o : Options) (i : PassInputs) (passes : Nat) : Mode :=
  if darkCause i then .dark
  else if passes < Config.startingPasses then .starting
  else if (poolAmbientCode o i).isNone then .held
  else .regulating

/-! ### Stages 5 to 8: the target -/

/-- The hold limit, in passes (5.1). -/
def holdLimit (o : Options) : Nat := 4 * o.holdSeconds

/-- Y_base (R86 to R88); a DARK pass forms none. -/
def baseLuminance (o : Options) (i : PassInputs) (st : Settling) : Mode → Nat
  | .starting => o.yStart
  | .regulating => (ceiling o i).getD 0
  | .held =>
    match st.heldCeiling with
    | some y => if st.holdCount < holdLimit o then y else o.yFallback
    | none => o.yFallback
  | .dark => 0

/-- Y_dem: the derate, then the cap (R91, R92). -/
def demand (i : PassInputs) (base : Nat) : Nat :=
  match i.cap with
  | some c => min (base - i.derate) c.level
  | none => base - i.derate

/-- A record that decides a continuity bound: FRESH, publishing REGULATING or HELD (R93). -/
def eligible (n : Neighbour) : Bool :=
  n.freshness = .fresh && (n.mode = .regulating || n.mode = .held)

/-- The bound of the nearest eligible record that a search meets (R93, R94). -/
def nearestBound (gradient : Nat) (look : Nat → Option Neighbour) : List Nat → Option Nat
  | [] => none
  | d :: rest =>
    match look d with
    | some n => if eligible n then some (n.yOut + gradient * d) else nearestBound gradient look rest
    | none => nearestBound gradient look rest

/-- Bounds are formed in REGULATING and HELD with the own slot present (R93, R95). -/
def boundsFormed (mode : Mode) : Bool := mode = .regulating || mode = .held

def upstreamBound (o : Options) (i : PassInputs) (mode : Mode) : Option Nat :=
  if boundsFormed mode then
    i.ownSlot.bind fun own => nearestBound o.gradient (upstreamAt i.slots own) (distances o.radius)
  else none

def downstreamBound (o : Options) (i : PassInputs) (mode : Mode) : Option Nat :=
  if boundsFormed mode then
    i.ownSlot.bind fun own => nearestBound o.gradient (downstreamAt i.slots own) (distances o.radius)
  else none

/-- The lesser of a value and an optional bound. -/
def boundedBy (y : Nat) (bound : Option Nat) : Nat := min y (bound.getD y)

/-- Y_target (R96). -/
def target (o : Options) (i : PassInputs) (st : Settling) (mode : Mode) : Nat :=
  min (boundedBy (boundedBy (demand i (baseLuminance o i st mode)) (upstreamBound o i mode))
    (downstreamBound o i mode)) o.yPeak

/-! ### Stage 9: the slew and the duty words -/

/-- Y_out moved toward Y_target (R97); a fall is not limited while the cap read carries IMMEDIATE (R98). -/
def slew (o : Options) (immediate : Bool) (yOut yTarget : Nat) : Nat :=
  if yOut < yTarget then min yTarget (yOut + o.slewUp)
  else if immediate then yTarget
  else max yTarget (yOut - o.slewDown)

/-- Y_out after a pass (R89, R97). -/
def nextOut (o : Options) (i : PassInputs) (st : Settling) (mode : Mode) : Nat :=
  if mode = .dark then 0 else slew o (i.cap.any CapRecord.immediate) st.yOut (target o i st mode)

/-- D_c of a chain: 0 in DARK, the conversion of Y_c in any other mode (R9, R13, R14, R89, R99). -/
def dutyOf (o : Options) (mode : Mode) (yOut : Nat) (c : Fin 4) : Nat :=
  if mode = .dark then 0 else dutyWord o.yPeak (chainLuminance o.yPeak yOut (o.trims.get c))

/-! ### Stage 10 and the pass as a whole -/

/-- The held ceiling after a pass: a REGULATING pass renews it (R87). -/
def nextHeld (o : Options) (i : PassInputs) (st : Settling) (mode : Mode) : Option Nat :=
  if mode = .regulating then ceiling o i else st.heldCeiling

/-- The hold count after a pass: REGULATING sets it to 0 and HELD counts it up to the hold limit (R87, R88). -/
def nextHoldCount (o : Options) (st : Settling) (mode : Mode) : Nat :=
  if mode = .regulating then 0
  else if mode = .held then satSucc (holdLimit o) st.holdCount
  else st.holdCount

/-- The stage record of a pass (R101). -/
def stageOf (o : Options) (i : PassInputs) (st : Settling) (mode : Mode) : StageRecord :=
  { mode := mode
    aOwn := i.aOwn
    aPool := poolAmbientCode o i
    yCeil := ceiling o i
    derate := i.derate
    capLevel := i.cap.map CapRecord.level
    upstream := (upstreamBound o i mode).map (min 511)
    downstream := (downstreamBound o i mode).map (min 511)
    yTarget := if mode = .dark then none else some (target o i st mode)
    yOut := nextOut o i st mode }

/-- The controller after a pass on these inputs (R78). -/
def settle (o : Options) (i : PassInputs) (st : Settling) : Settling :=
  let mode := modeOf o i st.passes
  { st with
    mode := mode
    yOut := nextOut o i st mode
    heldCeiling := nextHeld o i st mode
    holdCount := nextHoldCount o st mode
    passes := satSucc Config.startingPasses st.passes
    stage := stageOf o i st mode }

/-- Each used chain is posted its duty word (R100). -/
def State.postDuties (s : State) (mode : Mode) (yOut : Nat) : State :=
  { s with chains := s.chains.mapWithIndex fun c ch =>
      if s.used c then ch.postDuty (dutyOf s.options mode yOut c) else ch }

/-- A pass made at the expiry that falls at `d` (R76 to R101). -/
def State.pass (d : Nat) (s : State) : State :=
  let st := settle s.options s.passInputs s.settling
  ({ s with settling := { st with passDue := some (d + Config.quarterSecond) } }).postDuties st.mode st.yOut

/-- SETTLING_PASS (R76, R78). -/
def execSettlingPass (s : State) : Result :=
  .next (match s.settling.passDue with
    | none => s
    | some d => (s.arriveAt d).pass d)

end Sys2Proof.Machine
end

