-- ==== Sys2Proof/Machine/StartUp.lean ====
section
/-! DEFINITION. Reset and the start-up unit: RESET_ASSERT, RESET_END, READ_ATTEMPT, READ_OUTCOME and
SETTLING_WAIT_EXPIRY (Chapter 11). -/

namespace Sys2Proof.Machine

open Sys2Proof

/-- The sources that hold reset asserted, with one more (R199). -/
def ResetSources.add (r : ResetSources) : ResetSource → ResetSources
  | .power => { r with power := true }
  | .lowVoltage => { r with lowVoltage := true }
  | .pin => { r with pin := true }

def ResetSources.none : ResetSources := ⟨false, false, false⟩

/-- The start cause after an assertion: that of the source that begins the reset; during a reset only the power-on
detector changes it (R199). -/
def causeAfter (inReset : Bool) (source old : ResetSource) : ResetSource :=
  if inReset then (if source = .power then .power else old) else source

/-- RESET_ASSERT (R199, R200): every block returns to its reset state. -/
def execResetAssert (source : ResetSource) (s : State) : Result :=
  let inReset : Bool := s.startUp.phase = .resetHeld
  let sources := if inReset then s.startUp.sources else ResetSources.none
  .next (State.held (sources.add source) (causeAfter inReset source s.startUp.startCause) s.pending)

/-- What the end of reset does (R1, R54, R113, R201). -/
def State.endReset (straps : Addr) (s : State) : State :=
  { s with
    timeBase := 0
    startUp := { s.startUp with phase := .reading, sources := ResetSources.none, address := some straps }
    line := { s.line with listenOnly := straps = 0x3FF }
    cap := { s.cap with countDue := some Config.quarterSecond } }

/-- RESET_END (R201). -/
def execResetEnd (straps : Addr) (s : State) : Result :=
  .next (if s.startUp.phase = .resetHeld then s.endReset straps else s)

/-- Microseconds from an attempt's start to its end, at which select is released: that of the last data bit when the response bit came
at bit time 24 + j, and of the search for it when none came (R202). -/
def attemptLength : Option (Fin 8) → Nat
  | some j => 24 + j.val + 1 + 728
  | none => 32

/-- An attempt may begin: none has read the block and fewer than three were made (R202). -/
def StartUp.mayAttempt (u : StartUp) : Bool := u.phase = .reading && u.attempts < 3 && u.answered.isNone

/-- The count at which attempt number `n`, from 0, begins (R202). -/
def attemptStart (n : Nat) : Nat := n * Config.attemptSpacing

/-- An attempt begins now, with the response that the memory gives in it, if any (R202; log entry 11). -/
def State.attempt (response : Option (Fin 8)) (s : State) : State :=
  { s with startUp := { s.startUp with
      attempts := s.startUp.attempts + 1, attemptBegan := some s.timeBase, answered := response } }

/-- READ_ATTEMPT (R202). -/
def execReadAttempt (response : Option (Fin 8)) (s : State) : Result :=
  .next (if s.startUp.mayAttempt then (s.arriveAt (attemptStart s.startUp.attempts)).attempt response else s)

/-- The bit times of the attempt in progress that have begun; absent when the port is idle (R202). -/
def State.attemptBit (s : State) : Option Nat :=
  match s.startUp.attemptBegan with
  | some t =>
    if s.startUp.phase = .reading && s.timeBase < t + attemptLength s.startUp.answered then some (s.timeBase - t) else none
  | none => none

/-- Select of the configuration memory port: asserted from the attempt's start to its end, and released in every other phase
(R202, R211). -/
def State.memorySelect (s : State) : Bool := s.attemptBit.isSome

/-- The data output of the configuration memory port in the attempt's first 24 bit times: the command bits (R202), most significant
first, which R202 says of the data bits alone; the manual gives the output no level after them. Both are DESIGN CHOICES
(log entry 11). -/
def State.memoryData (s : State) : Option Bool :=
  match s.attemptBit with
  | some k => if k < 24 then some (Config.readCommand.getMsbD k) else none
  | none => none

/-- The outcome of READING, if it has come: the count at which it falls, and the block when one was read (R202). -/
def StartUp.outcome (u : StartUp) (octets : List Octet) : Option (Nat × Option (List Octet)) :=
  match u.attemptBegan with
  | some t =>
    if u.phase = .reading && (u.answered.isSome || u.attempts = 3) then
      some (t + attemptLength u.answered, if u.answered.isSome then some octets else none)
    else none
  | none => none

/-- A chain as the values are applied: a used chain is IDLE with its census posted, the others stay OFF (R142, R209). -/
def Chain.powered (used : Bool) (ch : Chain) : Chain :=
  if used then { ch with state := .idle, pend := { ch.pend with census := true } } else ch

/-- The values applied are handed to their users (R209). -/
def State.handOver (a : Applied) (octets : List Octet) (s : State) : State :=
  let s1 := { s with startUp := { s.startUp with
    phase := .powering
    octets := octets
    applied := some a.options
    waitEnd := some (s.timeBase + Config.settlingWait) } }
  { s1 with
    neighbours := { s1.neighbours with windows := a.windows, ownSlot := a.ownSlot }
    settling := { s1.settling with
      yOut := min a.options.yStart a.options.yPeak
      stage := { s1.settling.stage with yOut := min a.options.yStart a.options.yPeak } }
    chains := s1.chains.mapWithIndex fun c ch => ch.powered (s1.used c)
    ports := s1.ports.mapWithIndex fun p q => { q with supplyOn := (s1.chainOnPort p).isSome } }

/-- The raises of the corrections, in group order (R209). -/
def configRaises (raises : List (Nat × Nat)) : List (FaultKind × Source × FaultAction) :=
  raises.map fun r => (.configDefaulted, BitVec.ofNat 6 r.1, .raise (some (BitVec.ofNat 16 r.2)))

/-- READ_OUTCOME (R203 to R209). -/
def execReadOutcome (octets : List Octet) (s : State) : Result :=
  .next (match s.startUp.outcome octets with
    | none => s
    | some (t, block) =>
      let a := appliedOf s.ownAddress block
      ((s.arriveAt t).handOver a (block.getD [])).requestAll (configRaises a.raises))

/-- Every block that has not been released is released at one count (R210); each interval's first expiry falls one whole
interval later (R3), and the first beacon at the station's beacon slot. No
edge of the line has been seen then, from which R32 times the samples; DESIGN CHOICE (log entry 29): the release counts as the moment of a
sample, so the first one falls a bit time after it, or half a bit time after an edge that comes first. -/
def State.release (s : State) : State :=
  let t := s.timeBase
  let o := s.options
  let quarter := some (t + Config.quarterSecond)
  { s with
    pwmCount := 0
    startUp := { s.startUp with phase := .running, attempts := 0, attemptBegan := none, answered := none, octets := [], waitEnd := none }
    sensors := s.sensors.mapWithIndex fun i c =>
      if i.val < o.sensorCount then { c with windowEnd := some (t + o.gate) } else c
    line := { s.line with
      beaconDue :=
        if s.line.listenOnly then none else some (t + s.ownAddress.toNat % 4 * Config.quarterSecond) }
    wire := { LineSamples.reset with sampledAt := t }
    neighbours := { s.neighbours with agingDue := quarter }
    settling := { s.settling with passDue := quarter }
    chains := s.chains.mapWithIndex fun c ch =>
      if s.used c then
        { ch with
          sweepDue := some (t + o.sweepSeconds * Config.second)
          testDue := some (t + o.testSeconds * Config.second) }
      else ch
    scanner := { s.scanner with scanDue := quarter }
    faults := { s.faults with agingDue := quarter }
    responder := { s.responder with agingDue := quarter } }

/-- SETTLING_WAIT_EXPIRY (R210): the release, at which each used chain starts its census (R119, R142). -/
def execSettlingWaitExpiry (s : State) : Result :=
  .next (if s.startUp.phase = .powering then
    (List.finRange 4).foldl (fun t c => t.startHighest c) (s.arriveAt (s.startUp.waitEnd.getD 0)).release
  else s)

end Sys2Proof.Machine
end

