-- ==== Sys2Proof/Machine/Supply.lean ====
section
/-! DEFINITION. The supply scanner: SUPPLY_SCAN and CONVERSION_COMPLETE (8.7). -/

namespace Sys2Proof.Machine

open Sys2Proof

/-- The threshold of a nominal code and the droop level (R159). -/
def supplyThreshold (nominal k : Nat) : Nat := nominal * k / 32

/-- The recovery level (R159). -/
def recoveryLevel (nominal k : Nat) : Nat := supplyThreshold nominal k + nominal / 32

/-- A port is monitored when a used chain is joined to it and its nominal code is above 0 (R159). -/
def State.monitored (s : State) (p : Fin 4) : Bool :=
  (s.chainOnPort p).isSome && 0 < s.options.nominals.get p

/-- The monitored ports in ascending order (R159). -/
def State.monitoredPorts (s : State) : List (Fin 4) := (List.finRange 4).filter s.monitored

/-- SUPPLY_SCAN (R159): the first conversion begins at the expiry. -/
def execSupplyScan (s : State) : Result :=
  .next (match s.scanner.scanDue with
    | none => s
    | some d =>
      let s1 := s.arriveAt d
      { s1 with scanner := { s1.scanner with
          queue := s1.monitoredPorts
          conversionEnd := d + Config.conversion
          scanDue := some (d + Config.quarterSecond) } })

/-- A port's record after a sample (R160). -/
def SupplyRecord.sampled (threshold recovery sample : Nat) (r : SupplyRecord) : SupplyRecord :=
  if sample < threshold then
    { lowRun := satSucc 2 r.lowRun, goodRun := 0, droopReported := r.droopReported || r.lowRun = 1 }
  else if sample < recovery then { r with lowRun := 0, goodRun := 0 }
  else { lowRun := 0, goodRun := satSucc 8 r.goodRun, droopReported := r.droopReported && r.goodRun ≠ 7 }

/-- The request a sample gives (R160). -/
def SupplyRecord.report (threshold recovery sample : Nat) (r : SupplyRecord) : Option FaultAction :=
  if sample < threshold then
    if r.lowRun = 1 && !r.droopReported then some (.raise (some (BitVec.ofNat 16 sample))) else none
  else if sample < recovery then none
  else if r.goodRun = 7 && r.droopReported then some .withdraw else none

/-- The logical chain joined to a port, as the source of SUPPLY_DROOP (R161). -/
def State.portSource (s : State) (p : Fin 4) : Source := chainSource ((s.chainOnPort p).getD 0)

/-- A sample evaluated against its port's levels, and the next conversion begun (R159, R160). -/
def State.evaluateSample (p : Fin 4) (rest : List (Fin 4)) (sample : Nat) (s : State) : State :=
  let r := s.scanner.records.get p
  let low := supplyThreshold (s.options.nominals.get p) s.options.droopLevel
  let high := recoveryLevel (s.options.nominals.get p) s.options.droopLevel
  let s1 := { s with scanner := { s.scanner with
    records := s.scanner.records.set p (r.sampled low high sample)
    queue := rest
    conversionEnd := s.scanner.conversionEnd + Config.conversion } }
  match r.report low high sample with
  | some a => s1.request .supplyDroop (s.portSource p) a
  | none => s1

/-- CONVERSION_COMPLETE (R160). -/
def execConversionComplete (sample : BitVec 10) (s : State) : Result :=
  .next (match s.scanner.queue with
    | [] => s
    | p :: rest => (s.arriveAt s.scanner.conversionEnd).evaluateSample p rest sample.toNat)

end Sys2Proof.Machine
end

