-- ==== Sys2Proof/Machine/Dispatch.lean ====
section
/-! DEFINITION. The one place where a command meets its meaning: one arm per row of spec/opcode_table.json. -/

namespace Sys2Proof.Machine

open Sys2Proof

def exec (i : Instr) (s : State) : Host.Outcome State Fault Refusal :=
  match i with
  | .resetAssert source => Sys2Proof.Machine.execResetAssert source s
  | .resetEnd straps => Sys2Proof.Machine.execResetEnd straps s
  | .readAttempt response => Sys2Proof.Machine.execReadAttempt response s
  | .readOutcome octets => Sys2Proof.Machine.execReadOutcome octets s
  | .settlingWaitExpiry => Sys2Proof.Machine.execSettlingWaitExpiry s
  | .sensorEdge ch stamp => Sys2Proof.Machine.execSensorEdge ch stamp s
  | .gateWindowEnd ch => Sys2Proof.Machine.execGateWindowEnd ch s
  | .lineIdle => Sys2Proof.Machine.execLineIdle s
  | .stuckDominant => Sys2Proof.Machine.execStuckDominant s
  | .frameStart => Sys2Proof.Machine.execFrameStart s
  | .arbitrationLoss => Sys2Proof.Machine.execArbitrationLoss s
  | .bitError => Sys2Proof.Machine.execBitError s
  | .frameSent => Sys2Proof.Machine.execFrameSent s
  | .frameDiscard cause => Sys2Proof.Machine.execFrameDiscard cause s
  | .frameReceived kind sender payload => Sys2Proof.Machine.execFrameReceived kind sender payload s
  | .clashQuietExpiry => Sys2Proof.Machine.execClashQuietExpiry s
  | .beaconReceived sender beacon => Sys2Proof.Machine.execBeaconReceived sender beacon s
  | .capSetting sender cap duration => Sys2Proof.Machine.execCapSetting sender cap duration s
  | .capCancel sender cap => Sys2Proof.Machine.execCapCancel sender cap s
  | .queryBadItem asker target item argument tag => Sys2Proof.Machine.execQueryBadItem asker target item argument tag s
  | .faults asker target argument tag => Sys2Proof.Machine.execFaults asker target argument tag s
  | .tile asker target argument tag => Sys2Proof.Machine.execTile asker target argument tag s
  | .tileDetail asker target argument tag => Sys2Proof.Machine.execTileDetail asker target argument tag s
  | .view asker target argument tag => Sys2Proof.Machine.execView asker target argument tag s
  | .levels asker target argument tag => Sys2Proof.Machine.execLevels asker target argument tag s
  | .chain asker target argument tag => Sys2Proof.Machine.execChain asker target argument tag s
  | .line asker target argument tag => Sys2Proof.Machine.execLine asker target argument tag s
  | .beaconBuild => Sys2Proof.Machine.execBeaconBuild s
  | .neighbourAging => Sys2Proof.Machine.execNeighbourAging s
  | .capCountdown => Sys2Proof.Machine.execCapCountdown s
  | .settlingPass => Sys2Proof.Machine.execSettlingPass s
  | .operationStart c => Sys2Proof.Machine.execOperationStart c s
  | .censusComplete c lead => Sys2Proof.Machine.execCensusComplete c lead s
  | .censusUnusable c straightBack => Sys2Proof.Machine.execCensusUnusable c straightBack s
  | .brightnessComplete c lead echo => Sys2Proof.Machine.execBrightnessComplete c lead echo s
  | .statusWordComplete c lead word => Sys2Proof.Machine.execStatusWordComplete c lead word s
  | .sweepComplete c => Sys2Proof.Machine.execSweepComplete c s
  | .detailComplete c lead echo words => Sys2Proof.Machine.execDetailComplete c lead echo words s
  | .testComplete c lead returned => Sys2Proof.Machine.execTestComplete c lead returned s
  | .operationTimeout c => Sys2Proof.Machine.execOperationTimeout c s
  | .sweepPeriodExpiry c => Sys2Proof.Machine.execSweepPeriodExpiry c s
  | .testPeriodExpiry c => Sys2Proof.Machine.execTestPeriodExpiry c s
  | .censusRetryExpiry c => Sys2Proof.Machine.execCensusRetryExpiry c s
  | .pwmPeriodStart p => Sys2Proof.Machine.execPwmPeriodStart p s
  | .pwmOnTimeEnd p => Sys2Proof.Machine.execPwmOnTimeEnd p s
  | .collectorTake => Sys2Proof.Machine.execCollectorTake s
  | .faultRaise kind source detail => Sys2Proof.Machine.execFaultRaise kind source detail s
  | .faultWithdraw kind source => Sys2Proof.Machine.execFaultWithdraw kind source s
  | .faultClearedAging => Sys2Proof.Machine.execFaultClearedAging s
  | .deferredReadyAging => Sys2Proof.Machine.execDeferredReadyAging s
  | .supplyScan => Sys2Proof.Machine.execSupplyScan s
  | .conversionComplete sample => Sys2Proof.Machine.execConversionComplete sample s
  | .lineLeavesIdle => Sys2Proof.Machine.execLineLeavesIdle s

end Sys2Proof.Machine
end

