-- ==== Sys2Proof/WellFormed.lean ====
section
/-! DEFINITION. The checks on a command's operands that its types do not already make: the ranges and lengths that the
manual gives them. -/

namespace Sys2Proof

/-- The highest source a fault kind has (9.2). -/
def topSource : FaultKind → Nat
  | .sensorSilent => 1
  | .chainDown => 3
  | .chainTimeout => 3
  | .chainIntegrity => 3
  | .tileCount => 3
  | .tileOpen => 63
  | .tileShort => 63
  | .tileSupply => 63
  | .thermalWarn => 63
  | .thermalCrit => 63
  | .supplyDroop => 3
  | .lineError => 0
  | .lineStuck => 0
  | .addressClash => 0
  | .configDefaulted => 7

/-- How many arguments a query item has: its argument lies below this (R184); 0 for an unknown item. -/
def argumentRange (item : Nat) : Nat :=
  match item with
  | 1 => 8
  | 2 => 64
  | 3 => 64
  | 4 => 32
  | 5 => 256
  | 6 => 4
  | 7 => 256
  | _ => 0

/-- The characters are those of a complete frame: its third is the length, and length + 4 of them have been assembled (R41). -/
def completeFrame (octets : List Octet) : Bool :=
  match octets[2]? with
  | some n => n.toNat ≤ Config.payloadMax && octets.length = n.toNat + 4
  | none => false

/-- The characters may begin a frame, of which more are to come: their third, if there is one, is a length of at most 24 (R41). -/
def beginsFrame (octets : List Octet) : Bool :=
  match octets[2]? with
  | some n => n.toNat ≤ Config.payloadMax && octets.length < n.toNat + 4
  | none => true

/-- A command is well-formed: its operands lie in the ranges the manual gives its row. -/
def wellFormed : Instr → Bool
  | .resetAssert _ => true
  | .resetEnd _ => true
  | .readAttempt _ => true
  | .readOutcome octets => octets.isEmpty || octets.length = Config.blockOctets
  | .settlingWaitExpiry => true
  | .sensorEdge _ _ => true
  | .gateWindowEnd _ => true
  | .lineIdle => true
  | .stuckDominant => true
  | .frameStart => true
  | .arbitrationLoss => true
  | .bitError => true
  | .frameSent => true
  | .frameDiscard cause =>
    match cause with
    | .framingError octets => !octets.isEmpty && beginsFrame octets.dropLast
    | .badLength octets => octets.length = 3 && octets[2]?.any fun n => Config.payloadMax < n.toNat
    | .idleBeforeComplete octets => !octets.isEmpty && beginsFrame octets
    | .badCheck octets => completeFrame octets && (octets.map BitVec.toNat).sum % 256 ≠ 255
  | .frameReceived _ _ payload => payload.length ≤ Config.payloadMax
  | .clashQuietExpiry => true
  | .beaconReceived _ _ => true
  | .capSetting _ _ duration => duration ≠ 0
  | .capCancel _ _ => true
  | .queryBadItem _ _ item argument _ => argumentRange item.toNat ≤ argument.toNat
  | .faults _ _ argument _ => argument.toNat < argumentRange 1
  | .tile _ _ argument _ => argument.toNat < argumentRange 2
  | .tileDetail _ _ argument _ => argument.toNat < argumentRange 3
  | .view _ _ argument _ => argument.toNat < argumentRange 4
  | .levels _ _ _ _ => true
  | .chain _ _ argument _ => argument.toNat < argumentRange 6
  | .line _ _ _ _ => true
  | .beaconBuild => true
  | .neighbourAging => true
  | .capCountdown => true
  | .settlingPass => true
  | .operationStart _ => true
  | .censusComplete _ lead => 1 ≤ lead && lead ≤ 64
  | .censusUnusable _ _ => true
  | .brightnessComplete _ _ _ => true
  | .statusWordComplete _ _ _ => true
  | .sweepComplete _ => true
  | .detailComplete _ _ _ _ => true
  | .testComplete _ _ _ => true
  | .operationTimeout _ => true
  | .sweepPeriodExpiry _ => true
  | .testPeriodExpiry _ => true
  | .censusRetryExpiry _ => true
  | .pwmPeriodStart _ => true
  | .pwmOnTimeEnd _ => true
  | .collectorTake => true
  | .faultRaise kind source _ => source.toNat ≤ topSource kind
  | .faultWithdraw kind source => source.toNat ≤ topSource kind && kind ≠ .configDefaulted
  | .faultClearedAging => true
  | .deferredReadyAging => true
  | .supplyScan => true
  | .conversionComplete _ => true
  | .lineLeavesIdle => true

end Sys2Proof
end

