-- ==== Sys2Proof/Safety.lean ====
section
/-! DEFINITION. The terms in which the claims speak of the machine: the parts of the state and what leaves them as they
were, the ranges that the manual gives its state, and the properties of a whole state that every step keeps. -/

namespace Sys2Proof.Machine

open Sys2Proof

/-! ### Parts of the state and frames -/

/-- The parts of the state, one for each field. -/
inductive Part where
  | timeBase | pwmCount | startUp | sensors | line | wire | neighbours | settling | cap | chains | ports | collector | scanner
  | faults | requests | responder | pending
  deriving DecidableEq, Repr

/-- Two states hold the same in a part. -/
def Part.agrees (s t : State) : Part → Prop
  | .timeBase => t.timeBase = s.timeBase
  | .pwmCount => t.pwmCount = s.pwmCount
  | .startUp => t.startUp = s.startUp
  | .sensors => t.sensors = s.sensors
  | .line => t.line = s.line
  | .wire => t.wire = s.wire
  | .neighbours => t.neighbours = s.neighbours
  | .settling => t.settling = s.settling
  | .cap => t.cap = s.cap
  | .chains => t.chains = s.chains
  | .ports => t.ports = s.ports
  | .collector => t.collector = s.collector
  | .scanner => t.scanner = s.scanner
  | .faults => t.faults = s.faults
  | .requests => t.requests = s.requests
  | .responder => t.responder = s.responder
  | .pending => t.pending = s.pending

/-- `t` is `s` but for the parts named. -/
def Keeps (changed : List Part) (s t : State) : Prop := ∀ p, p ∉ changed → p.agrees s t

/-- `t` is `s` but for one chain among the chains and for the other parts named. -/
def KeepsButChain (c : Fin 4) (changed : List Part) (s t : State) : Prop :=
  Keeps (.chains :: changed) s t ∧ ∀ d, d ≠ c → t.chains.get d = s.chains.get d

/-- Requests as they stand when a requester has made them in the state `t`, in their order. -/
def madeNow (t : State) (rs : List (FaultKind × Source × FaultAction)) : List Request :=
  rs.map fun r => { madeAt := t.timeBase, kind := r.1, source := r.2.1, action := r.2.2 }

/-- The withdraws that come of marking present only the first `n` tiles of a chain: for each tile that was present and becomes absent,
those of its reported conditions, in R144's order; the tiles by ascending position (log entry 14). -/
def absenceWithdraws (s : State) (c : Fin 4) (n : Nat) : List (FaultKind × Source × FaultAction) :=
  (List.finRange 16).flatMap fun p =>
    let t := s.collector.tiles.get (tileIndex c p)
    if t.marked && n ≤ p.val then
      ([(t.reported.tileOpen, FaultKind.tileOpen), (t.reported.tileShort, .tileShort), (t.reported.tileSupply, .tileSupply),
          (t.reported.thermalCrit, .thermalCrit), (t.reported.thermalWarn, .thermalWarn)].filter Prod.fst).map
        fun e => (e.2, BitVec.ofNat 6 (16 * c.val + p.val), FaultAction.withdraw)
    else []

/-- A property of states that every step keeps. -/
def KeptByStep (Inv : State → Prop) : Prop := ∀ s t, Inv s → step s = .next t → Inv t

/-- A frame of this sender is not held back for bearing the station's own address (R44). -/
abbrev State.NotHeldBack (s : State) (sender : Addr) : Prop := s.line.listenOnly = true ∨ sender ≠ s.ownAddress

/-- The receive assembler in the ranges of R41: no frame in assembly has a length above 24 or the characters of a complete one, and a
character has at most its eight data samples; and an assembly has ended as its characters say. -/
def Assembler.sound (a : Assembler) : Bool :=
  match a with
  | .empty => true
  | .between characters => !characters.isEmpty && beginsFrame characters
  | .within characters bits => beginsFrame characters && bits.length ≤ 8
  | .ended characters reason =>
    !characters.isEmpty && beginsFrame characters.dropLast &&
      match reason with
      | .framingError => true
      | .badLength => characters[2]?.any fun n => Config.payloadMax < n.toNat
      | .complete => completeFrame characters
  | .ignoring => true

/-- The two counts of samples in their ranges, one of them 0: a sample that adds to one ends the other's run (R33, R39); the line idle,
with the assembler empty, only after twelve recessive samples, and stuck only after 65 dominant ones (R33, R39, R41); no frame in
assembly on a line that no station drives (log entry 5). -/
abbrev LineSamples.Sound (w : LineSamples) : Prop :=
  w.idleCount ≤ Config.idleBits ∧ w.stuckCount ≤ Config.stuckBits ∧ (w.idleCount = 0 ∨ w.stuckCount = 0) ∧
  (w.idle = true → w.idleCount = Config.idleBits ∧ w.assembler = .empty) ∧ (w.stuck = true → w.stuckCount = Config.stuckBits) ∧
  (w.quiet = true → w.assembler = .empty ∨ w.assembler = .ignoring) ∧ w.assembler.sound = true

/-- The station, which does not itself send, has read the beginning of these characters, and `u` is its state when it has read the
rest of them, a bit time apart: a good frame leaves the assembler empty, and no station drives the line (R32, R41, R42; log entries 5
and 7). -/
def State.Hears (s : State) (octets : List Octet) (u : State) : Prop :=
  s.running = true ∧ s.line.sending = false ∧ s.wire.Sound ∧
  ∃ read more w, s.wire.assembler.read = some read ∧ charactersLevels octets = read ++ more ∧
    w = s.wire.readFrom (bitTimeOf s.options.lineRate) (s.wire.sampledAt + bitTimeOf s.options.lineRate) more ∧
    u = { s.arriveAt w.sampledAt with wire := { w with quiet := true, assembler := .empty } }

/-- A good frame counted (R42). -/
def LineControl.afterGood (l : LineControl) : LineControl :=
  { l with counters := { l.counters with good := min (l.counters.good + 1) 65535 } }

/-- The parts that a command may change, beside what the passing of time changes. -/
def changes : Instr → List Part
  | .resetAssert _ =>
    [.timeBase, .pwmCount, .startUp, .sensors, .line, .wire, .neighbours, .settling, .cap, .chains, .ports, .collector,
      .scanner, .faults, .requests, .responder]
  | .resetEnd _ => [.timeBase, .startUp, .line, .cap]
  | .readAttempt _ => [.startUp]
  | .readOutcome _ => [.startUp, .neighbours, .settling, .chains, .ports, .requests]
  | .settlingWaitExpiry =>
    [.pwmCount, .startUp, .sensors, .line, .wire, .neighbours, .settling, .chains, .scanner, .faults, .responder]
  | .sensorEdge _ _ => [.sensors]
  | .gateWindowEnd _ => [.sensors, .requests]
  | .lineIdle => [.line, .wire, .requests]
  | .stuckDominant => [.line, .wire, .requests]
  | .frameStart => [.line, .wire]
  | .arbitrationLoss => [.line, .wire]
  | .bitError => [.line, .wire, .requests]
  | .frameSent => [.line, .wire, .requests]
  | .frameDiscard _ => [.line, .wire]
  | .frameReceived _ _ _ => [.line, .wire, .requests, .neighbours, .cap, .chains, .responder]
  | .clashQuietExpiry => [.line, .requests]
  | .beaconReceived _ _ => [.line, .wire, .requests, .neighbours]
  | .capSetting _ _ _ => [.line, .wire, .requests, .cap]
  | .capCancel _ _ => [.line, .wire, .requests, .cap]
  | .queryBadItem _ _ _ _ _ => [.line, .wire, .requests, .chains, .responder]
  | .faults _ _ _ _ => [.line, .wire, .requests]
  | .tile _ _ _ _ => [.line, .wire, .requests]
  | .tileDetail _ _ _ _ => [.line, .wire, .requests, .chains, .responder]
  | .view _ _ _ _ => [.line, .wire, .requests]
  | .levels _ _ _ _ => [.line, .wire, .requests]
  | .chain _ _ _ _ => [.line, .wire, .requests]
  | .line _ _ _ _ => [.line, .wire, .requests]
  | .beaconBuild => [.line]
  | .neighbourAging => [.neighbours]
  | .capCountdown => [.cap]
  | .settlingPass => [.settling, .chains]
  | .operationStart _ => [.chains, .responder]
  | .censusComplete _ _ => [.chains, .collector, .requests, .responder]
  | .censusUnusable _ _ => [.chains, .collector, .requests, .responder]
  | .brightnessComplete _ _ _ => [.chains, .requests]
  | .statusWordComplete _ _ _ => [.chains]
  | .sweepComplete _ => [.chains, .collector, .requests]
  | .detailComplete _ _ _ _ => [.chains, .requests, .responder]
  | .testComplete _ _ _ => [.chains, .requests]
  | .operationTimeout _ => [.chains, .collector, .requests, .responder]
  | .sweepPeriodExpiry _ => [.chains]
  | .testPeriodExpiry _ => [.chains]
  | .censusRetryExpiry _ => [.chains]
  | .pwmPeriodStart _ => [.ports]
  | .pwmOnTimeEnd _ => [.ports]
  | .collectorTake => [.chains, .collector, .requests]
  | .faultRaise _ _ _ => [.faults, .requests, .line]
  | .faultWithdraw _ _ => [.faults, .requests, .line]
  | .faultClearedAging => [.faults]
  | .deferredReadyAging => [.responder]
  | .supplyScan => [.scanner]
  | .conversionComplete _ => [.scanner, .requests]
  | .lineLeavesIdle => [.wire]

/-! ### Ranges of the values applied (11.6) -/

/-- Group 1 (R204). -/
abbrev Options.SettlingInRange (o : Options) : Prop :=
  (1 ≤ o.ownWeight ∧ o.ownWeight ≤ 3) ∧ (1 ≤ o.radius ∧ o.radius ≤ 8) ∧ (8 ≤ o.gradient ∧ o.gradient ≤ 128) ∧
  (1 ≤ o.slewUp ∧ o.slewUp ≤ 16) ∧ (1 ≤ o.slewDown ∧ o.slewDown ≤ 64) ∧ (160 ≤ o.yPeak ∧ o.yPeak ≤ 511) ∧
  o.yStart ≤ o.yPeak ∧ o.yFallback ≤ o.yPeak ∧ (1 ≤ o.holdSeconds ∧ o.holdSeconds ≤ 255) ∧
  (2 ≤ o.staleSeconds ∧ o.staleSeconds ≤ 60) ∧ (o.staleSeconds < o.evictSeconds ∧ o.evictSeconds ≤ 255)

/-- A valid curve (R81, R206). -/
abbrev ValidCurve (curve : List (Nat × Nat)) : Prop :=
  (2 ≤ curve.length ∧ curve.length ≤ 8) ∧ (∀ p ∈ curve, p.1 ≤ 671 ∧ p.2 ≤ 511) ∧
  curve.Pairwise (fun p q => p.1 < q.1 ∧ p.2 ≤ q.2)

/-- Groups 6 (R114, R115, R207): counts of at most 16 with a total of at most 64, distinct ports, trims and periods. -/
abbrev Options.ChainsInRange (o : Options) : Prop :=
  (∀ c, o.tileCounts.get c ≤ 16) ∧ o.tileCounts.cells.sum ≤ 64 ∧
  (∀ c d, 0 < o.tileCounts.get c → 0 < o.tileCounts.get d → o.crossbar.get c = o.crossbar.get d → c = d) ∧
  (∀ c, -7 ≤ o.trims.get c ∧ o.trims.get c ≤ 7) ∧ (1 ≤ o.sweepSeconds ∧ o.sweepSeconds ≤ 255) ∧
  (1 ≤ o.testSeconds ∧ o.testSeconds ≤ 255) ∧ o.testThreshold ≤ 255

/-- Group 7 (R208). -/
abbrev Options.SensorsInRange (o : Options) : Prop :=
  o.sensorCount ≤ 2 ∧ (∀ s, o.sensorConstants.get s ≤ 1023) ∧
  (o.gate = 50000 ∨ o.gate = 100000 ∨ o.gate = 200000 ∨ o.gate = 400000) ∧ (∀ p, o.nominals.get p ≤ 1023) ∧
  (27 ≤ o.droopLevel ∧ o.droopLevel ≤ 30) ∧ o.warn ≤ 255 ∧ o.crit ≤ 255

/-- Every value applied lies in its range. -/
abbrev Options.InRange (o : Options) : Prop :=
  o.SettlingInRange ∧ ValidCurve o.curve ∧ o.ChainsInRange ∧ o.SensorsInRange

/-- No window reaches above slot 31 and no two windows share a slot (R60, R61). -/
abbrev WindowsSound (ws : Table ViewWindow 3) : Prop :=
  (∀ w, (ws.get w).enabled → slotEnd (ws.get w) ≤ 31) ∧
  ∀ v w, v < w → (ws.get v).enabled → (ws.get w).enabled → rangesOverlap (ws.get v) (ws.get w) = false

/-! ### Properties of a state that every step keeps -/

/-- While reset is asserted, every block holds its reset values (R199, R211). -/
def HeldIsReset (s : State) : Prop :=
  s.startUp.phase = .resetHeld → s = State.held s.startUp.sources s.startUp.startCause s.pending

/-- Nothing is applied before the outcome of READING (R200, R211). -/
abbrev AppliedAfterReading (s : State) : Prop :=
  (s.startUp.phase = .resetHeld ∨ s.startUp.phase = .reading) → s.startUp.applied = none

/-- What is applied lies in range, and nothing is applied before the outcome of READING (R200, R211). -/
def ValuesSound (s : State) : Prop :=
  (∀ o, s.startUp.applied = some o → o.InRange) ∧ WindowsSound s.neighbours.windows ∧
  AppliedAfterReading s ∧
  (s.startUp.applied ≠ none → s.neighbours.ownSlot = translate s.neighbours.windows s.ownAddress)

/-- A fault record in the ranges of R163. -/
abbrev FaultRecord.Sound (r : FaultRecord) : Prop :=
  (1 ≤ r.count ∧ r.count ≤ 255) ∧ r.clearedAge < Config.removalAge ∧ (r.state = .active → r.clearedAge = 0)

/-- The fault table: at most 24 records, none named twice, each in range; the FAULT output as R181 gives; and an overflow flag
only over more than 20 records (R163, R164, R175, R181). -/
abbrev FaultTable.Sound (t : FaultTable) : Prop :=
  t.records.length ≤ Config.faultPlaces ∧
  t.records.Pairwise (fun p q => ¬(p.kind = q.kind ∧ p.source = q.source)) ∧
  (∀ r ∈ t.records, r.Sound) ∧
  (t.output = true ↔ ∃ r ∈ t.records, r.state = .active ∧ faultSeverity r.kind ≠ .minor) ∧
  (t.overflow = true → Config.overflowRelease < t.records.length)

/-- A frame that the part may hold: a payload of at most 24 octets, and ROUTINE exactly for a BEACON (R35, 3.7). -/
abbrev Frame.Sound (f : Frame) : Prop :=
  f.payload.length ≤ Config.payloadMax ∧ (f.urgency = .routine ↔ f.kind = .beacon)

/-- The transmit queue: at most 8 frames in order of urgency, at most one of them a BEACON (R51). -/
abbrev QueueSound (queue : List Frame) : Prop :=
  queue.length ≤ Config.queuePlaces ∧ queue.Pairwise (fun p q => p.urgency.code ≤ q.urgency.code) ∧
  queue.countP (fun f => f.kind = .beacon) ≤ 1 ∧ ∀ f ∈ queue, f.Sound

/-- The six counters within 0..65535 (R56). -/
abbrev LineCounters.Sound (k : LineCounters) : Prop :=
  k.sent ≤ Config.counterTop ∧ k.lost ≤ Config.counterTop ∧ k.aborts ≤ Config.counterTop ∧
  k.drops ≤ Config.counterTop ∧ k.good ≤ Config.counterTop ∧ k.bad ≤ Config.counterTop

/-- The line controller in the ranges of Chapter 3. -/
abbrev LineControl.Sound (l : LineControl) : Prop :=
  QueueSound l.queue ∧ (∀ f, l.flight = some f → f.frame.Sound ∧ f.aborts < Config.abortLimit) ∧
  (l.sending = true → l.flight ≠ none) ∧ l.counters.Sound ∧ l.cleanRun ≤ Config.cleanRunTop ∧
  l.seq < 256

/-- A listen-only station has nothing to send and drives nothing (R54). -/
abbrev LineControl.Silent (l : LineControl) : Prop :=
  l.listenOnly = true → l.queue = [] ∧ l.flight = none ∧ l.sending = false ∧ l.drivesUntil = none ∧ l.seq = 0

/-- The line controller of a state: sound with its samples, silent when listen-only, and as after reset while reset is asserted. -/
def LineSound (s : State) : Prop :=
  s.line.Sound ∧ s.wire.Sound ∧ s.line.Silent ∧
  (s.startUp.phase = .resetHeld → s.line = LineControl.reset ∧ s.wire = LineSamples.reset)

/-- A neighbour record in the ranges of R64, for a stale and an evict time. -/
abbrev Neighbour.Sound (o : Options) (n : Neighbour) : Prop :=
  n.yOut ≤ 511 ∧ (∀ a, n.ambient = some a → a ≤ 671) ∧
  (∀ k, n.cap = some k → k.1 ≤ 511 ∧ 1 ≤ k.2 ∧ k.2 ≤ 14400) ∧ n.activeCount ≤ 24 ∧
  (n.severity = none ↔ n.activeCount = 0) ∧ n.seq ≤ 255 ∧ n.missed ≤ 255 ∧ n.age < 4 * o.evictSeconds ∧
  (n.freshness = .fresh ↔ n.age ≤ 4 * o.staleSeconds)

/-- The neighbour table: each record stands in the slot that its sender's address takes, is not the station's own, and is in
range; and a part that is not RUNNING holds none (R59, R61, R63 to R65, R74). -/
def NeighboursSound (s : State) : Prop :=
  (∀ o, s.startUp.applied = some o → 0 < o.evictSeconds) ∧
  (s.startUp.phase ≠ .running → ∀ i, s.neighbours.slots.get i = none) ∧
  ∀ i n, s.neighbours.slots.get i = some n →
    n.Sound s.options ∧ translate s.neighbours.windows n.sender = some i ∧ n.sender ≠ s.ownAddress

/-- The settling controller in the ranges of Chapter 5, its stage record beside its mode and Y_out. -/
abbrev Settling.Sound (o : Options) (st : Settling) : Prop :=
  st.yOut ≤ o.yPeak ∧ st.holdCount ≤ holdLimit o ∧ st.passes ≤ Config.startingPasses ∧
  (∀ y, st.heldCeiling = some y → y ≤ 511) ∧ (st.mode = .dark → st.yOut = 0) ∧
  st.stage.mode = st.mode ∧ st.stage.yOut = st.yOut

/-- The settling controller of a state: sound, and before RUNNING as after reset but for Y_out (R97, R103). -/
def SettlingSound (s : State) : Prop :=
  (∀ o, s.startUp.applied = some o → ∀ p ∈ o.curve, p.2 ≤ 511) ∧ s.settling.Sound s.options ∧
  (s.startUp.phase ≠ .running →
    s.settling = { Settling.reset with yOut := s.settling.yOut, stage := StageRecord.starting s.settling.yOut })

/-- The cap record, when one exists, has time remaining and a level in range (R104). -/
def CapSound (s : State) : Prop :=
  ∀ r, s.cap.record = some r → r.level ≤ 511 ∧ 1 ≤ r.remaining ∧ r.remaining ≤ 14400

/-- A chain controller's record in the ranges of 7.3; the shift clock is stopped exactly while the register holds a word, which
it does only in a SWEEP whose FIFO is full (R128, R134); a lead bit's arrival is held only in a SWEEP of which a word has completed
(R116); the port's select outputs have been set for an operation, the running one while there is one (R114, R117); an OFF chain holds
nothing and has set nothing (R114). -/
abbrev Chain.Sound (ch : Chain) : Prop :=
  ch.fifo.length ≤ Config.fifoDepth ∧ (ch.stalled = true ↔ ch.register ≠ none) ∧
  (ch.stalled = true → ch.state = .sweep ∧ ch.fifo.length = Config.fifoDepth) ∧ ch.bitCount ≤ ch.bitLimit ∧
  ch.echoMiss ≤ 255 ∧ (∀ n, ch.census = some n → n ≤ 64) ∧ (∀ n, ch.lastMismatch = some n → n ≤ 254) ∧
  (ch.pendingValue ≤ 65535 ∧ ch.sentValue ≤ 65535 ∧ ∀ d, ch.duty = some d → d ≤ 65535) ∧
  ch.pendingPosition ≤ 15 ∧ (ch.lead ≠ none → ch.state = .sweep ∧ 0 < ch.wordsDone) ∧
  ((operating ch.state = true → ch.selected = some ch.state) ∧ ∀ op, ch.selected = some op → operating op = true) ∧
  (ch.state = .off →
    ch.pend = PendingSet.empty ∧ ch.duty = none ∧ ch.census = none ∧ ch.fifo = [] ∧ ch.selected = none)

/-- The chains of a state: each is in range, and is OFF exactly when the values applied do not use it (R114, R117). -/
def ChainsSound (s : State) : Prop :=
  AppliedAfterReading s ∧ ∀ c, (s.chains.get c).Sound ∧ ((s.chains.get c).state = .off ↔ s.used c = false)

/-- A tile record: all as after reset while absent, in range while present (R143, R144). -/
abbrev TileRecord.Sound (t : TileRecord) : Prop :=
  (t.marked = false → t = TileRecord.reset) ∧ t.sweepsSince ≤ 255 ∧ t.warnClear ≤ 2 ∧
  ∀ r, t.readings = some r → r.openCount ≤ 15 ∧ r.shortCount ≤ 15 ∧ r.temperature ≤ 255

/-- The tile status table: a chain's tiles that are marked present are exactly its first positions, those below its census count and
its tile count; there is none while it is OFF or DOWN, whose census count is absent or 0, and none while the part is not RUNNING,
where no census has returned (R123, R124, R143). -/
def TilesSound (s : State) : Prop :=
  (∀ i, (s.collector.tiles.get i).Sound) ∧ (∀ c, s.options.tileCounts.get c ≤ 16) ∧
  (s.startUp.phase ≠ .running → ∀ c, (s.chains.get c).census = none) ∧
  ∀ c,
    (∀ p, s.marked c p = true ↔
      ∃ n, (s.chains.get c).census = some n ∧ p < min n (s.options.tileCounts.get c)) ∧
    ((s.chains.get c).state = .off ∨ (s.chains.get c).state = .down →
      ((s.chains.get c).census = none ∨ (s.chains.get c).census = some 0) ∧ ∀ p, s.marked c p = false)

/-- A chain has a detail request of this position, waiting or running (R118, R130). -/
abbrev Chain.HasDetail (ch : Chain) (position : Nat) : Prop :=
  (ch.pend.detail = true ∧ ch.state ≠ .detail ∧ ch.pendingPosition = position) ∨
  (ch.state = .detail ∧ ch.pend.detail = false ∧ ch.sentPosition = position)

/-- A chain has no detail request. -/
abbrev Chain.NoDetail (ch : Chain) : Prop := ch.pend.detail = false ∧ ch.state ≠ .detail

/-- The deferred record and the detail requests: a WAITING record has exactly one detail request outstanding, at its tile, and
without one there is none; the ready age is in range (R193, R194, R196, R197). -/
def DeferredSound (s : State) : Prop :=
  (s.startUp.phase ≠ .running → s.responder.deferred = none) ∧
  (∀ d, s.responder.deferred = some d → d.tile < 64 ∧ d.readyAge < Config.readyFreeAge ∧
    (d.state = .waiting → d.readyAge = 0)) ∧
  ∀ c, match s.responder.deferred with
    | some d =>
      if d.state = .waiting ∧ d.tile / 16 = c.val then (s.chains.get c).HasDetail (d.tile % 16)
      else (s.chains.get c).NoDetail
    | none => (s.chains.get c).NoDetail

/-- The edges of a channel stand in the order of their stamps, at most four to a stamp, so a window counts at most four for each
count from its first stamp to its last; an early edge belongs to a later window than the one in progress (R18, R19). -/
abbrev SensorChannel.EdgesSound (c : SensorChannel) : Prop :=
  (c.window.first = none ↔ c.window.count = 0) ∧ (c.window.last = none ↔ c.window.count = 0) ∧
  (∀ a b, c.window.first = some a → c.window.last = some b → a ≤ b ∧ c.window.count ≤ 4 * (b - a + 1)) ∧
  (c.early.Pairwise (· ≤ ·) ∧ ∀ x, c.early.count x ≤ 4) ∧
  match c.windowEnd, c.latest with
  | none, latest => latest = none ∧ c.early = [] ∧ c.window.count = 0
  | some _, none => c.early = [] ∧ c.window.count = 0
  | some e, some (x, k) =>
    (1 ≤ k ∧ k ≤ 4) ∧ (∀ y ∈ c.early, e ≤ y) ∧ (∀ b, c.window.last = some b → b < e ∧ b ≤ x) ∧
    (c.early = [] → x < e) ∧ (c.early ≠ [] → c.early.getLast? = some x ∧ c.early.count x = k) ∧
    (c.window.last = some x → ∀ a, c.window.first = some a → c.window.count ≤ 4 * (x - a) + k)

/-- A sensor channel in the ranges of 2.1; a VALID channel has a code and has not been silent for three windows (R22). -/
abbrev SensorChannel.Sound (c : SensorChannel) : Prop :=
  c.silent ≤ 3 ∧ (∀ a, c.lastCode = some a → a ≤ 671) ∧ (c.state = .valid → c.lastCode ≠ none ∧ c.silent < 3) ∧
  c.EdgesSound

/-- The sensor channels of a state: in range, and none has a window before RUNNING (R17, R30). -/
def SensorsSound (s : State) : Prop :=
  (s.startUp.phase ≠ .running → ∀ i, (s.sensors.get i).windowEnd = none) ∧ ∀ i, (s.sensors.get i).Sound

/-- A supply record in the ranges of 8.7; a low run and a good run never stand together (R160). -/
abbrev SupplyRecord.Sound (r : SupplyRecord) : Prop :=
  r.lowRun ≤ 2 ∧ r.goodRun ≤ 8 ∧ (r.lowRun = 0 ∨ r.goodRun = 0)

/-- The supply scanner: every record in range. -/
def ScannerSound (s : State) : Prop := ∀ p, (s.scanner.records.get p).Sound

/-- A port: its supply is on exactly when a used chain is joined to it, and its PWM line is active only then, with an on-time of
1..4095 counts (R8, R114, R140); the shared PWM count stands at a half of a microsecond (R2; log entry 16). -/
def PortsSound (s : State) : Prop :=
  AppliedAfterReading s ∧ (s.pwmCount < 4096 ∧ s.pwmCount % 8 = 0) ∧ (∀ c d, (s.chains.get c).duty = some d → d ≤ 65535) ∧
  ∀ p, ((s.ports.get p).supplyOn = true ↔ s.chainOnPort p ≠ none) ∧
    ((s.ports.get p).lineActive = true →
      s.chainOnPort p ≠ none ∧ 1 ≤ (s.ports.get p).onTime ∧ (s.ports.get p).periodStart ≠ none) ∧
    (s.ports.get p).onTime ≤ 4095

/-- The requests that wait stand in the order in which they were made, none of them made later than now (R166). -/
def RequestsSound (s : State) : Prop :=
  HeldIsReset s ∧ s.requests.Pairwise (fun p q => p.madeAt ≤ q.madeAt) ∧ ∀ r ∈ s.requests, r.madeAt ≤ s.timeBase

end Sys2Proof.Machine
end

