-- ==== Sys2Proof/Certificates/Slice0/Obligations.lean ====
section
/-! DEFINITION. The statements for the provers. Each says in its docstring which rules of spec/ it formalises; a clause that is
the model's own choice names its log entry. -/

open Sys2Proof Sys2Proof.Machine

/-! ## The queue, time and frames -/

/-- One step runs the command at the front of the queue on the state with the queue's rest. -/
def Obligations.FrontCommandRuns : Prop :=
  ∀ (c : Instr) (rest : List Instr) (s : State), s.pending = c :: rest → step s = exec c { s with pending := rest }

/-- On an empty queue one microsecond passes (the model's choice, log entry 2). Time passes in halves of a microsecond: the time base
counts the whole ones, except under reset (R1), and an arrival at a count leaves the time base there or beyond; once the chain
controllers are released the PWM count gains 8 in each half, and each running operation one bit time while its shift clock runs (R2,
R134, R140), and the line's samples go on: of an own frame, whose bits are each sampled in their middle and read back as sent (R32);
of a line known to be quiet after
a frame (the model's choice, log entry 5), whose idle count rises by 1 in each bit time (R33), up to 12;
and otherwise of a line whose level and edges are free
values (the model's form of other stations, log entry 5). Nothing else changes. That nothing falls between two
counts before the release is the model's choice (log entry 23). -/
def Obligations.TimePasses : Prop :=
  ∀ s : State,
    (s.pending = [] → step s = .next (s.passTime 1)) ∧ (∀ d, s.passTime d = s.passHalves (2 * d)) ∧
    (∀ n, s.startUp.phase = .resetHeld → s.passHalves n = s) ∧
    (∀ n, s.startUp.phase ≠ .resetHeld →
      (s.passTime n).timeBase = s.timeBase + n ∧ (s.arriveAt n).timeBase = max s.timeBase n ∧
      (∃ m, s.arriveAt n = s.passHalves m) ∧
      Keeps [.timeBase, .pwmCount, .chains, .wire] s (s.passHalves n)) ∧
    (∀ n, s.running = false → Keeps [.timeBase] s (s.passHalves n)) ∧
    ∀ n now bit, 0 < n → s.running = true → now = s.timeBase + (s.pwmCount / 8 % 2 + n) / 2 →
      bit = bitTimeOf s.options.lineRate →
      (s.passHalves n).timeBase = now ∧ (s.passHalves n).pwmCount = (s.pwmCount + 8 * n) % 4096 ∧
      (∀ f, s.line.sending = true → s.line.flight = some f →
        (s.passHalves n).wire = LineSamples.readFrom bit (s.line.startedAt + bit / 2)
          (f.frame.levels.take ((now + bit / 2 - s.line.startedAt) / bit))
          ⟨12, 0, s.line.startedAt, some s.line.startedAt, false, true, false, .empty⟩) ∧
      (∀ m, s.line.sending = false → s.wire.quiet = true → m = (now - s.wire.sampledAt) / bit →
        (s.passHalves n).wire = { s.wire with
          idleCount := min (s.wire.idleCount + m) 12, stuckCount := if m = 0 then s.wire.stuckCount else 0
          sampledAt := s.wire.sampledAt + m * bit, stuck := s.wire.stuck && m = 0 }) ∧
      (s.line.sending = false → s.wire.quiet = false →
        (s.passHalves n).wire = s.wire.heardUntil bit now (now - s.wire.sampledAt)) ∧
      ∀ c, (s.passHalves n).chains.get c = { s.chains.get c with
        bitCount :=
          if (s.chains.get c).stalled || (s.chains.get c).finalArrived then (s.chains.get c).bitCount
          else min ((s.chains.get c).bitCount + n) (s.chains.get c).bitLimit }

/-- No command stops the part: each answers a next state, leaves the queue to the step, and never turns the time base back but
where reset holds it at 0 (R1). That a command whose moment has not come answers too is the model's choice (log entry 1). -/
def Obligations.EveryCommandCompletes : Prop :=
  ∀ (c : Instr) (s : State), ∃ t, exec c s = .next t ∧ t.pending = s.pending ∧
    (s.timeBase ≤ t.timeBase ∨ s.startUp.phase = .resetHeld ∨ t.startUp.phase = .resetHeld)

/-- The frame of every command: but for the parts that its row changes, the state after it is the state before it with some time
passed. -/
def Obligations.CommandFrames : Prop :=
  ∀ (c : Instr) (s t : State), exec c s = .next t → ∃ n, Keeps (changes c) (s.passHalves n) t

/-- While the part is RUNNING only a reset touches what start-up fixed: the start-up unit's own values, the view windows and the
own slot, the listen-only flag and the port supplies (R54, R58, R62, R114, R201, R210). -/
def Obligations.StartUpValuesFixed : Prop :=
  ∀ (c : Instr) (s t : State), s.running = true → exec c s = .next t →
    (∃ w, c = .resetAssert w) ∨
      (t.startUp = s.startUp ∧ t.neighbours.windows = s.neighbours.windows ∧
        t.neighbours.ownSlot = s.neighbours.ownSlot ∧ t.line.listenOnly = s.line.listenOnly ∧
        ∀ p, (t.ports.get p).supplyOn = (s.ports.get p).supplyOn)

/-- The machine right after reset has every property that the invariants below say each step keeps. -/
def Obligations.ResetIsSound : Prop :=
  HeldIsReset State.reset ∧ ValuesSound State.reset ∧ State.reset.faults.Sound ∧ LineSound State.reset ∧
  NeighboursSound State.reset ∧ SettlingSound State.reset ∧ ChainsSound State.reset ∧ TilesSound State.reset ∧
  DeferredSound State.reset ∧ PortsSound State.reset ∧ RequestsSound State.reset ∧
  (SensorsSound State.reset ∧ ScannerSound State.reset ∧ CapSound State.reset)

/-! ## Invariants -/

/-- While reset is asserted every block stays in its reset state (R1, R200, R211). -/
def Obligations.StepKeepsResetState : Prop := KeptByStep HeldIsReset

/-- The values applied lie in their ranges, the view windows reach no slot above 31 and share none, and the own slot is the slot
of the own address (R59 to R62, R204 to R208). -/
def Obligations.StepKeepsValuesSound : Prop := KeptByStep ValuesSound

/-- At most 24 fault records, none named twice, in their ranges; the FAULT output follows the ACTIVE records; the overflow flag
stands only over more than 20 records (R163, R164, R171, R175, R181). -/
def Obligations.StepKeepsFaultTableSound : Prop := KeptByStep fun s => s.faults.Sound

/-- At most 8 frames wait, in order of urgency, at most one of them a BEACON; counters and runs stay in range; the idle count stays
within 0..12 and the stuck count within 0..65, one of them 0; the line is idle only after twelve recessive samples, with no frame in
assembly; a frame in assembly has a length of at most 24 and not yet all its characters, each of at most eight data samples; a
listen-only station has nothing to send and drives nothing (R33, R35, R37 to R39, R41, R51, R54, R56). That no frame is in assembly on
a line that no station drives is the model's choice (log entry 5). -/
def Obligations.StepKeepsLineSound : Prop := KeptByStep LineSound

/-- Every neighbour record is in range, stands in the slot that its sender's address takes, and is not the station's own (R59,
R63 to R65, R68, R70, R71, R74). -/
def Obligations.StepKeepsNeighboursSound : Prop := KeptByStep NeighboursSound

/-- Y_out stays within 0..Y_peak and is 0 in DARK; the hold count, the pass count and the held ceiling stay in range; the stage
record carries the mode and Y_out that the controller holds (R85, R88, R89, R97, R101, R103). -/
def Obligations.StepKeepsSettlingSound : Prop := KeptByStep SettlingSound

/-- Every chain record stays in range; its shift clock is stopped exactly while its register holds a word, and then its FIFO is
full and it sweeps; a chain is OFF exactly when it is not used; while it runs an operation its port's select outputs are set for that one
(R114, R116, R117, R126, R128, R133, R134). That they stand set between operations is the model's choice (log entry 28). -/
def Obligations.StepKeepsChainsSound : Prop := KeptByStep ChainsSound

/-- The tiles marked present are exactly the first positions of their chain, as many as the lesser of its census count and N_c; while
it is OFF or DOWN its census count is absent or 0 and none is marked; an absent tile's record is empty (R123, R124, R143, R144). -/
def Obligations.StepKeepsTilesSound : Prop := KeptByStep fun s => TilesSound s

/-- A WAITING deferred record has exactly one detail request outstanding, on the chain and at the position of its tile, and there
is no other (R118, R193, R194, R196). -/
def Obligations.StepKeepsDetailAccounted : Prop := KeptByStep DeferredSound

/-- A port's supply is on exactly when a used chain is joined to it, and its PWM line is active only then and only for an on-time
of 1..4095 counts (R8, R114, R140). That the shared PWM count is a multiple of 8, half a microsecond, at every command is the model's choice (log
entry 16). -/
def Obligations.StepKeepsPortsSound : Prop := KeptByStep PortsSound

/-- The requests that wait for the fault table stand in the order in which they were made (R166). -/
def Obligations.StepKeepsRequestsInOrder : Prop := KeptByStep RequestsSound

/-- Sensor channels, supply records and the cap record stay in their ranges: no channel has a window before RUNNING, a VALID channel has
a code and fewer than three silent windows, edges stand in the order of their stamps with at most four to a stamp, so that a window of b − a + 1 counts from its first
stamp to its last holds at most four edges for each, a low run and a good run never stand together, and a cap record has time
remaining (R17 to R19, R22, R30, R104, R108, R160). -/
def Obligations.StepKeepsSmallRecordsSound : Prop :=
  KeptByStep fun s => SensorsSound s ∧ ScannerSound s ∧ CapSound s

/-! ## Arithmetic -/

/-- LOG32 lies in 0..607, does not decrease, never exceeds 32 × log2(x), and falls short of it by less than 2.5 (R10): the last
two as inequalities of powers. -/
def Obligations.LogIsAccurate : Prop :=
  ∀ x, 1 ≤ x → x ≤ 524287 →
    log32 x ≤ 607 ∧ (∀ y, x ≤ y → y ≤ 524287 → log32 x ≤ log32 y) ∧
    2 ^ log32 x ≤ x ^ 32 ∧ x ^ 64 < 2 ^ (2 * log32 x + 5)

/-- R14: a duty word is 0 in DARK whatever the trims and Y_peak, and lies in 1..65535 in any other mode; the smallest is 1, at
Δ = 511, whose PWM on-time is 0 counts, and the largest 65535, at Δ = 0. It does not decrease as the chain's luminance increases (R13). -/
def Obligations.DutyWordRange : Prop :=
  (∀ (o : Options) (yOut : Nat) (c : Fin 4), dutyOf o .dark yOut c = 0) ∧
  (∀ (o : Options) (mode : Mode) (yOut : Nat) (c : Fin 4), o.yPeak ≤ 511 → mode ≠ .dark →
    1 ≤ dutyOf o mode yOut c ∧ dutyOf o mode yOut c ≤ 65535) ∧
  dutyWord 511 0 = 1 ∧ (∀ y, dutyWord y y = 65535) ∧ onTimeOf (dutyWord 511 0) = 0 ∧
  ∀ yPeak a b, yPeak ≤ 511 → a ≤ b → b ≤ yPeak → dutyWord yPeak a ≤ dutyWord yPeak b

/-- R81, R82: on a valid curve Y_ceil is Y_0 up to A_0 and the last Y from the last A on, is the interpolated value rounded down
within a segment, lies between the first and the last Y, and does not decrease as A_pool increases; the built-in curve is
valid. -/
def Obligations.CeilingFollowsCurve : Prop :=
  ValidCurve builtInCurve ∧
  ∀ (curve : List (Nat × Nat)) (first last : Nat × Nat), ValidCurve curve →
    curve.head? = some first → curve.getLast? = some last → ∀ pool,
    (pool ≤ first.1 → ceilingAt curve pool = first.2) ∧ (last.1 ≤ pool → ceilingAt curve pool = last.2) ∧
    (∀ k (h : k + 1 < curve.length), (curve[k]).1 ≤ pool → pool < (curve[k + 1]).1 →
      ceilingAt curve pool =
        (curve[k]).2 + (pool - (curve[k]).1) * ((curve[k + 1]).2 - (curve[k]).2) / ((curve[k + 1]).1 - (curve[k]).1)) ∧
    (first.2 ≤ ceilingAt curve pool ∧ ceilingAt curve pool ≤ last.2) ∧
    ∀ pool', pool ≤ pool' → ceilingAt curve pool ≤ ceilingAt curve pool'

/-- The pool list has W copies of A_own and one copy of the ambient of every FRESH record within R slots of the own slot that publishes
one, and no other member: each code stands in it as often as that, so it has at most W + 2R members, each an ambient code (R79). R80: A_pool is the member at index floor((n − 1) / 2) of the list in ascending
order, within 0..671 and between the smallest and the largest member; it is absent when the list is empty, which leaves Y_ceil
absent and sends a pass that is past the first eight and has no dark cause to HELD. -/
def Obligations.PoolMedian : Prop :=
  (∀ (o : Options) (i : PassInputs),
    (poolList o i).length ≤ o.ownWeight + 2 * o.radius ∧
    (∀ a, (poolList o i).count a = (if i.aOwn = some a then o.ownWeight else 0) +
      ((List.finRange 32).filter fun n => match i.ownSlot, i.slots.get n with
        | some own, some r => decide (n ≠ own ∧ n.val ≤ own.val + o.radius ∧ own.val ≤ n.val + o.radius ∧
            r.freshness = .fresh ∧ r.ambient = some a)
        | _, _ => false).length) ∧
    (∀ a, a ∈ poolList o i ↔
      (i.aOwn = some a ∧ 0 < o.ownWeight) ∨
      ∃ own n r, i.ownSlot = some own ∧ n ≠ own ∧ n.val ≤ own.val + o.radius ∧ own.val ≤ n.val + o.radius ∧
        i.slots.get n = some r ∧ r.freshness = .fresh ∧ r.ambient = some a) ∧
    ((∀ a, i.aOwn = some a → a ≤ 671) → (∀ n r a, i.slots.get n = some r → r.ambient = some a → a ≤ 671) →
      ∀ a, poolAmbientCode o i = some a → a ≤ 671) ∧
    poolAmbientCode o i = lowerMedian (poolList o i) ∧
    (poolList o i = [] → poolAmbientCode o i = none ∧ ceiling o i = none ∧
      ∀ passes, 8 ≤ passes → darkCause i = false → modeOf o i passes = .held)) ∧
  ∀ pool : List Nat, (pool = [] → lowerMedian pool = none) ∧
    (pool ≠ [] → ∃ (sorted : List Nat) (a : Nat), sorted.Perm pool ∧ sorted.Pairwise (· ≤ ·) ∧
      sorted[(pool.length - 1) / 2]? = some a ∧ lowerMedian pool = some a ∧ a ∈ pool ∧
      (∀ b, (∀ x ∈ pool, b ≤ x) → b ≤ a) ∧ ∀ b, (∀ x ∈ pool, x ≤ b) → a ≤ b)

/-- Base, demand, continuity, target and slew. Y_base is Y_start in STARTING, Y_ceil in REGULATING, and in HELD the held ceiling below
the hold limit and otherwise Y_fallback (R86 to R88); Y_dem is max(Y_base − derate, 0), and no more than the cap level (R91, R92);
the nearest FRESH record publishing REGULATING or HELD within R slots on a side bounds the level by
its Y_out and G codes a slot, and without one there is no bound on that side (R93, R94); none is formed in STARTING or DARK or
without the own slot (R95); Y_target is the least of Y_dem, the bounds and Y_peak (R96); Y_out rises to
min(Y_target, Y_out + S_up) or falls to max(Y_target, Y_out − S_down), without limit under IMMEDIATE, and never passes the target
(R97, R98). -/
def Obligations.TargetAndSlew : Prop :=
  ∀ (o : Options) (i : PassInputs) (st : Settling) (mode : Mode),
    (baseLuminance o i st .starting = o.yStart ∧
      (∀ y, ceiling o i = some y → baseLuminance o i st .regulating = y) ∧
      (∀ y, st.heldCeiling = some y → st.holdCount < 4 * o.holdSeconds → baseLuminance o i st .held = y) ∧
      (st.heldCeiling = none ∨ 4 * o.holdSeconds ≤ st.holdCount → baseLuminance o i st .held = o.yFallback)) ∧
    (∀ y, (i.cap = none → demand i y = y - i.derate) ∧
      ∀ c, i.cap = some c → demand i y = min (y - i.derate) c.level) ∧
    (∀ own d r, i.ownSlot = some own → mode = .regulating ∨ mode = .held → 1 ≤ d → d ≤ o.radius →
      upstreamAt i.slots own d = some r → eligible r = true →
      (∀ e q, 1 ≤ e → e < d → upstreamAt i.slots own e = some q → eligible q = false) →
      upstreamBound o i mode = some (r.yOut + o.gradient * d)) ∧
    (∀ own d r, i.ownSlot = some own → mode = .regulating ∨ mode = .held → 1 ≤ d → d ≤ o.radius →
      downstreamAt i.slots own d = some r → eligible r = true →
      (∀ e q, 1 ≤ e → e < d → downstreamAt i.slots own e = some q → eligible q = false) →
      downstreamBound o i mode = some (r.yOut + o.gradient * d)) ∧
    (∀ own, i.ownSlot = some own →
      ((∀ d q, 1 ≤ d → d ≤ o.radius → upstreamAt i.slots own d = some q → eligible q = false) →
        upstreamBound o i mode = none) ∧
      ((∀ d q, 1 ≤ d → d ≤ o.radius → downstreamAt i.slots own d = some q → eligible q = false) →
        downstreamBound o i mode = none)) ∧
    (mode = .starting ∨ mode = .dark ∨ i.ownSlot = none →
      upstreamBound o i mode = none ∧ downstreamBound o i mode = none ∧
      target o i st mode = min (demand i (baseLuminance o i st mode)) o.yPeak) ∧
    (target o i st mode ≤ demand i (baseLuminance o i st mode) ∧ target o i st mode ≤ o.yPeak ∧
      (∀ b, upstreamBound o i mode = some b → target o i st mode ≤ b) ∧
      (∀ b, downstreamBound o i mode = some b → target o i st mode ≤ b) ∧
      (target o i st mode = demand i (baseLuminance o i st mode) ∨ target o i st mode = o.yPeak ∨
        upstreamBound o i mode = some (target o i st mode) ∨ downstreamBound o i mode = some (target o i st mode))) ∧
    (mode ≠ .dark →
      (st.yOut < target o i st mode → nextOut o i st mode = min (target o i st mode) (st.yOut + o.slewUp)) ∧
      (target o i st mode < st.yOut → i.cap.any CapRecord.immediate = false →
        nextOut o i st mode = max (target o i st mode) (st.yOut - o.slewDown)) ∧
      (target o i st mode = st.yOut → nextOut o i st mode = st.yOut) ∧
      nextOut o i st mode ≤ st.yOut + o.slewUp ∧
      (i.cap.any CapRecord.immediate = false → st.yOut ≤ nextOut o i st mode + o.slewDown) ∧
      (i.cap.any CapRecord.immediate = true → target o i st mode ≤ st.yOut →
        nextOut o i st mode = target o i st mode) ∧
      min st.yOut (target o i st mode) ≤ nextOut o i st mode ∧
      nextOut o i st mode ≤ max st.yOut (target o i st mode) ∧
      (1 ≤ o.slewUp → 1 ≤ o.slewDown → nextOut o i st mode = st.yOut → target o i st mode = st.yOut)) ∧
    nextOut o i st .dark = 0

/-! ## Frames, windows, the option block and the queue -/

/-- A frame is its payload and four more characters, whose octets sum to 255 mod 256 (R35, R42); its key is urgency × 16384 +
sender address × 16 + kind (R36), laid out as R212 gives. Each character is ten levels: a dominant start bit, eight data bits, most
significant first, 0 dominant and 1 recessive, and a recessive stop bit; the characters follow one another (R32, R35). While the
part sends it drives the level of the bit whose bit time it is; after an abort it drives dominant up to the end of a bit that it sent
dominant (R37); and otherwise it leaves the line recessive (R32, R54, R57). -/
def Obligations.FrameOctets : Prop :=
  (∀ f : Frame, f.payload.length ≤ 24 →
    f.octets.length = f.payload.length + 4 ∧ octetSum f.octets = 255 ∧
    f.key.toNat = f.urgency.code * 16384 + f.sender.toNat * 16 + f.kind.code ∧
    f.octets.take 3 = [BitVec.ofNat 8 (f.key.toNat / 256), BitVec.ofNat 8 f.key.toNat, BitVec.ofNat 8 f.payload.length] ∧
    (f.octets.drop 3).take f.payload.length = f.payload ∧
    f.levels.length = 10 * (f.payload.length + 4) ∧
    ∀ k o, f.octets[k]? = some o →
      f.levels[10 * k]? = some .dominant ∧ f.levels[10 * k + 9]? = some .recessive ∧
      ∀ i, i < 8 → f.levels[10 * k + 1 + i]? = some (if o.getMsbD i then .recessive else .dominant)) ∧
  ∀ s : State,
    (s.line.sending = false → s.line.drivesUntil = none → s.drives = .recessive) ∧
    (∀ stop, s.line.sending = false → s.line.drivesUntil = some stop →
      s.drives = if s.timeBase < stop then .dominant else .recessive) ∧
    ∀ f, s.line.sending = true → s.line.flight = some f →
      s.drives = f.frame.levels.getD ((s.timeBase - s.line.startedAt) / bitTimeOf s.options.lineRate) .recessive

/-- A beacon is heard as it was published: from every sound state, the octets of the beacon built read back as its fields (R213),
and the record another station makes of them has the sender's mode, Y_out, A_own, cap, active count, highest severity,
overflow flag and sequence number, none of them corrected (R55, R66, R68, R180). -/
def Obligations.BeaconHeardAsPublished : Prop :=
  ∀ s : State, s.settling.yOut ≤ 511 → SensorsSound s → CapSound s → s.faults.Sound → s.line.seq < 256 →
    s.beaconFrame.payload.length = 12 ∧ beaconOf s.beaconFrame.payload = some s.beaconFields ∧
    neighbourOf s.ownAddress s.beaconFields = some
      { sender := s.ownAddress, mode := s.settling.mode, yOut := s.settling.yOut, ambient := s.ownAmbient,
        cap := s.cap.record.map fun r => (r.level, r.remaining),
        activeCount := s.faults.activeCount, severity := s.faults.highest, overflow := s.faults.overflow,
        seq := s.line.seq, missed := 0, age := 0, freshness := .fresh }

/-- R60, R61: an enabled window whose slot range reaches above 31 is disabled whole and CONFIG_DEFAULTED is raised with source 2 + w
and detail 1; one that passed that test and shares a slot with an earlier window that is still enabled is disabled and raised
with detail 2; the earlier window, and any other, stands as it was read, and the default window passes. So every address that
a window admits has a slot in 0..31 (R59), and no two addresses share one. -/
def Obligations.NoSharedSlot : Prop :=
  (∀ (w0 w1 w2 : ViewWindow) (read ws : Table ViewWindow 3) (shares : ViewWindow → ViewWindow → Prop),
    read = ⟨[w0, w1, w2], rfl⟩ → ws = testedWindows w0 w1 w2 →
    (∀ v w, shares v w ↔ ∃ n, (v.offset ≤ n ∧ n ≤ slotEnd v) ∧ w.offset ≤ n ∧ n ≤ slotEnd w) →
    (∀ k, ws.get k = { read.get k with enabled := (ws.get k).enabled } ∧
      ((ws.get k).enabled = true ↔ (read.get k).enabled = true ∧ slotEnd (read.get k) ≤ 31 ∧
        ∀ j, j < k → (ws.get j).enabled = true → ¬shares (read.get j) (read.get k)) ∧
      ((.configDefaulted, BitVec.ofNat 6 (2 + k.val), .raise (some 1)) ∈ configRaises (windowRaises w0 w1 w2) ↔
        (read.get k).enabled = true ∧ 31 < slotEnd (read.get k)) ∧
      ((.configDefaulted, BitVec.ofNat 6 (2 + k.val), .raise (some 2)) ∈ configRaises (windowRaises w0 w1 w2) ↔
        (read.get k).enabled = true ∧ slotEnd (read.get k) ≤ 31 ∧
        ∃ j, j < k ∧ (ws.get j).enabled = true ∧ shares (read.get j) (read.get k))) ∧
    (∀ (a : Addr) (k : Fin 3), windowMatches (ws.get k) a = true → (translate ws a).isSome = true) ∧
    ∀ (a b : Addr) (i : Fin 32), translate ws a = some i → translate ws b = some i → a = b) ∧
  (∀ (own : Addr) (b : List Octet), b.length = 91 → octetSum b = 255 →
    (appliedOf own (some b)).windows = testedWindows (blockWindow b 0) (blockWindow b 1) (blockWindow b 2) ∧
    ∀ r ∈ windowRaises (blockWindow b 0) (blockWindow b 1) (blockWindow b 2), r ∈ (appliedOf own (some b)).raises) ∧
  ∀ own : Addr, ((appliedOf own none).windows.get 0).enabled = true

/-- Whatever the option block holds, every value applied lies in its range and the own slot is the slot of the own address (R204 to
R208). Without a sound block the defaults apply with the one raise of group 0, detail 1 for no response and 2 for a bad check
(R203). Of a sound block each field is read at its offset (R216) and, when in range, applied as read; one outside is clamped, or
replaced by the default where it is a code (R204, R208); the tile counts are cut to a total of 64, then to 16 each, and a crossbar
that joins two used chains to one port gives way to the identity (R207); a curve that fails one of five tests, in their order, gives
way to the built-in curve (R206). The raises come in group order: groups 1, 6 and 7 with the number of their fields that were
changed, if any, group 5 with the number of the first test that failed; the raise of an absent own slot, source 2 with detail 3, is
of group 2 and follows that group's detail 1 (R62, R205, R209). -/
def Obligations.AppliedValuesInRange : Prop :=
  ∀ (own : Addr) (block : Option (List Octet)) (o : Options) (raises : List (Nat × Nat)),
    o = (appliedOf own block).options → raises = (appliedOf own block).raises →
    o.InRange ∧ WindowsSound (appliedOf own block).windows ∧
    (appliedOf own block).ownSlot = translate (appliedOf own block).windows own ∧ raises.length ≤ 8 ∧
    (block = none → raises = [(0, 1)]) ∧
    (∀ b, block = some b → b.length = 91 → octetSum b ≠ 255 → raises = [(0, 2)]) ∧
    (block = none ∨ (∃ b, block = some b ∧ octetSum b ≠ 255) →
      o = defaultOptions ∧ (appliedOf own block).ownSlot = some ⟨own.toNat % 16, by omega⟩) ∧
    ∀ (b : List Octet) (f g : Nat → Nat), block = some b → b.length = 91 → octetSum b = 255 →
      (∀ k, f k = (b.getD k 0).toNat) → (∀ k, g k = 256 * f k + f (k + 1)) →
      (o.lineRate = (if f 0 = 0 then .kbit31 else if f 0 = 2 then .kbit125 else if f 0 = 3 then .kbit250 else .kbit62) ∧
        o.ownWeight = max 1 (min (f 1) 3) ∧ o.radius = max 1 (min (f 2) 8) ∧ o.gradient = max 8 (min (f 3) 128) ∧
        o.slewUp = max 1 (min (f 4) 16) ∧ o.slewDown = max 1 (min (f 5) 64) ∧ o.yPeak = max 160 (min (g 6) 511) ∧
        o.yStart = min (g 8) o.yPeak ∧ o.yFallback = min (g 10) o.yPeak ∧ o.holdSeconds = max 1 (f 12) ∧
        o.staleSeconds = max 2 (min (f 13) 60) ∧ o.evictSeconds = max (o.staleSeconds + 1) (f 14)) ∧
      (∀ w, w < 3 → blockWindow b w = ⟨decide (128 ≤ f (15 + 5 * w)), BitVec.ofNat 10 (g (16 + 5 * w)),
        BitVec.ofNat 10 (g (18 + 5 * w)), f (15 + 5 * w) % 32⟩) ∧
      (∀ c, o.tileCounts.get c =
        min (min (f (63 + c.val)) (64 - ((List.range c.val).map fun d => f (63 + d)).sum)) 16) ∧
      (∀ valid : Prop, (valid ↔ ∀ c d : Fin 4, c ≠ d → 0 < o.tileCounts.get c → 0 < o.tileCounts.get d →
          f 67 / 4 ^ c.val % 4 ≠ f 67 / 4 ^ d.val % 4) →
        (valid → ∀ c, (o.crossbar.get c).val = f 67 / 4 ^ c.val % 4) ∧ (¬valid → ∀ c, o.crossbar.get c = c) ∧
        ∀ n, n = ((List.finRange 4).filter fun c => o.tileCounts.get c ≠ f (63 + c.val)).length +
            (if f 70 = 0 then 1 else 0) + (if f 71 = 0 then 1 else 0) → ∀ d,
          ((6, d) ∈ raises ↔ 0 < d ∧ ((valid ∧ d = n) ∨ (¬valid ∧ d = n + 1)))) ∧
      (∀ (c : Fin 4) (nibble : Nat),
        nibble = (if c.val % 2 = 0 then f (68 + c.val / 2) / 16 else f (68 + c.val / 2) % 16) →
        o.trims.get c = if nibble < 8 then (nibble : Int) else 8 - (nibble : Int)) ∧
      (o.sweepSeconds = max 1 (f 70) ∧ o.testSeconds = max 1 (f 71) ∧ o.testThreshold = f 72) ∧
      (o.sensorCount = min (f 73) 2 ∧ (∀ i, o.sensorConstants.get i = min (g (74 + 2 * i.val)) 1023) ∧
        o.gate = (if f 78 = 0 then 50000 else if f 78 = 2 then 200000 else if f 78 = 3 then 400000 else 100000) ∧
        (∀ p, o.nominals.get p = min (g (79 + 2 * p.val)) 1023) ∧
        o.droopLevel = (if f 87 ≤ 3 then 27 + f 87 else 29) ∧ o.warn = f 88 ∧ o.crit = f 89) ∧
      (∀ fails : Nat → Prop,
        (fails 1 ↔ f 30 < 2 ∨ 8 < f 30) → (fails 2 ↔ ∃ k, k < f 30 ∧ 671 < g (31 + 4 * k)) →
        (fails 3 ↔ ∃ k, k < f 30 ∧ 511 < g (33 + 4 * k)) →
        (fails 4 ↔ ∃ k, k + 1 < f 30 ∧ g (31 + 4 * (k + 1)) ≤ g (31 + 4 * k)) →
        (fails 5 ↔ ∃ k, k + 1 < f 30 ∧ g (33 + 4 * (k + 1)) < g (33 + 4 * k)) →
        ((∀ d, 1 ≤ d → d ≤ 5 → ¬fails d) → (∀ d, (5, d) ∉ raises) ∧
          o.curve = (List.range (f 30)).map fun k => (g (31 + 4 * k), g (33 + 4 * k))) ∧
        ∀ d, 1 ≤ d → d ≤ 5 → fails d → (∀ e, 1 ≤ e → e < d → ¬fails e) →
          o.curve = builtInCurve ∧ ∀ x, (5, x) ∈ raises ↔ x = d) ∧
      (∀ n d, n = (if f 0 ≤ 3 then 0 else 1) + (([(f 1, o.ownWeight), (f 2, o.radius), (f 3, o.gradient),
            (f 4, o.slewUp), (f 5, o.slewDown), (g 6, o.yPeak), (g 8, o.yStart), (g 10, o.yFallback),
            (f 12, o.holdSeconds), (f 13, o.staleSeconds), (f 14, o.evictSeconds)] : List (Nat × Nat)).filter
              fun p => p.1 ≠ p.2).length →
        ((1, d) ∈ raises ↔ 0 < d ∧ d = n)) ∧
      (∀ n d, n = (if f 78 ≤ 3 then 0 else 1) + (if f 87 ≤ 3 then 0 else 1) +
            (([(f 73, o.sensorCount), (g 74, o.sensorConstants.get 0), (g 76, o.sensorConstants.get 1),
              (g 79, o.nominals.get 0), (g 81, o.nominals.get 1), (g 83, o.nominals.get 2),
              (g 85, o.nominals.get 3)] : List (Nat × Nat)).filter fun p => p.1 ≠ p.2).length →
        ((7, d) ∈ raises ↔ 0 < d ∧ d = n)) ∧
      ((2, 3) ∈ raises ↔ (appliedOf own block).ownSlot = none) ∧
      raises.Pairwise fun p q => p.1 < q.1 ∨ (p = (2, 1) ∧ q = (2, 3))

/-- The transmit queue (R51 to R54): a listen-only station discards the frame; a BEACON takes the waiting BEACON's place; with fewer
than 8 waiting the frame joins after every frame as urgent as itself; on a full queue the newest frame of the least urgent
class makes place for a more urgent one, or the new frame is dropped, and the drops counter counts it. -/
def Obligations.QueueOffers : Prop :=
  ∀ (f : Frame) (l : LineControl), QueueSound l.queue → f.Sound →
    (l.listenOnly = true → l.offer f = l) ∧
    (l.listenOnly = false →
      (∀ before q after, l.queue = before ++ q :: after → q.kind = .beacon → f.kind = .beacon →
        l.offer f = { l with queue := before ++ f :: after }) ∧
      (¬(f.kind = .beacon ∧ ∃ q ∈ l.queue, q.kind = .beacon) →
        (∀ before after, l.queue = before ++ after → l.queue.length < 8 →
          (∀ q ∈ before, q.urgency.code ≤ f.urgency.code) → (∀ q ∈ after, f.urgency.code < q.urgency.code) →
          l.offer f = { l with queue := before ++ f :: after }) ∧
        (∀ before last, l.queue = before ++ [last] → l.queue.length = 8 → f.urgency.code < last.urgency.code →
          ∀ ahead behind, before = ahead ++ behind → (∀ q ∈ ahead, q.urgency.code ≤ f.urgency.code) →
            (∀ q ∈ behind, f.urgency.code < q.urgency.code) →
            l.offer f = { l with
              queue := ahead ++ f :: behind
              counters := { l.counters with drops := min (l.counters.drops + 1) 65535 } }) ∧
        (∀ before last, l.queue = before ++ [last] → l.queue.length = 8 → last.urgency.code ≤ f.urgency.code →
          l.offer f = { l with
            counters := { l.counters with drops := min (l.counters.drops + 1) 65535 } })))

/-! ## What each command does: reset and start-up -/

/-- RESET_ASSERT leaves every block in its reset state, records the sources that hold reset, and sets the start cause to the source
that begins the reset; during a reset only the power-on detector changes the cause (R199). RESET_END starts the time base
at 0, enters READING, keeps the straps as the station address, sets the listen-only flag exactly for 0x3FF and releases the
cap unit (R1, R54, R113, R201). That the commands that wait stay in their queue is the model's choice (log entry 25). -/
def Obligations.ResetBeginsAndEnds : Prop :=
  (∀ (w : ResetSource) (s : State), ∃ t, exec (.resetAssert w) s = .next t ∧
    t = State.held t.startUp.sources t.startUp.startCause s.pending ∧
    (s.startUp.phase ≠ .resetHeld → t.startUp.startCause = w ∧
      t.startUp.sources = ⟨decide (w = .power), decide (w = .lowVoltage), decide (w = .pin)⟩) ∧
    (s.startUp.phase = .resetHeld →
      t.startUp.startCause = (if w = .power then .power else s.startUp.startCause) ∧
      t.startUp.sources = ⟨s.startUp.sources.power || decide (w = .power),
        s.startUp.sources.lowVoltage || decide (w = .lowVoltage), s.startUp.sources.pin || decide (w = .pin)⟩)) ∧
  ∀ (straps : Addr) (s : State), s.startUp.phase = .resetHeld → ∃ t, exec (.resetEnd straps) s = .next t ∧
    Keeps [.timeBase, .startUp, .line, .cap] s t ∧ t.timeBase = 0 ∧
    t.startUp = { s.startUp with
      phase := .reading, sources := ⟨false, false, false⟩, address := some straps } ∧
    t.line = { s.line with listenOnly := decide (straps = 0x3FF#10) } ∧ t.cap = { s.cap with countDue := some 250000 }

/-- READ_ATTEMPT: attempt n, from 0, begins at n × 1 000, when no earlier one was answered. Select is asserted from its start to bit time
753 + j when the response bit comes at bit time 24 + j, and to 32 when none comes, and released otherwise; in the first 24 bit times
the data output carries 0x03 and the address 0 (R202, R211), in the bit order that the model chose (log entry 11). READ_OUTCOME: a block read ends at bit time
753 + j of its attempt, the third attempt without a response 32 after it began, at 2 032 when that is 2 000; then the values are
applied and handed over, the supplies of the ports in use are on, each used chain is IDLE with its census posted, the raises of the
corrections are made in order, and the settling wait of 20 000 µs runs (R103, R142, R202, R203, R209). What the octets field holds,
that the response stands in the state from the attempt's start, that the command bits go most significant first, and that the data output
has no level after them, is the model's choice (log entry 11). -/
def Obligations.OptionBlockRead : Prop :=
  (∀ (response : Option (Fin 8)) (s : State), s.startUp.phase = .reading → s.startUp.attempts < 3 →
    s.startUp.answered = none → s.timeBase ≤ 1000 * s.startUp.attempts →
    ∃ t, exec (.readAttempt response) s = .next t ∧ Keeps [.timeBase, .startUp] s t ∧
      t.timeBase = 1000 * s.startUp.attempts ∧
      t.startUp = { s.startUp with
        attempts := s.startUp.attempts + 1, attemptBegan := some (1000 * s.startUp.attempts), answered := response }) ∧
  (∀ (s : State) (begun length : Nat), s.startUp.phase = .reading → s.startUp.attemptBegan = some begun →
    (length = match s.startUp.answered with
      | some j => 753 + j.val
      | none => 32) →
    (s.memorySelect = true ↔ s.timeBase < begun + length) ∧ (s.memorySelect = false → s.memoryData = none) ∧
    ∀ k, s.timeBase = begun + k → k < 24 → s.memoryData = some (decide (3 * 2 ^ 16 / 2 ^ (23 - k) % 2 = 1))) ∧
  (∀ s : State, s.startUp.phase ≠ .reading ∨ s.startUp.attemptBegan = none →
    s.memorySelect = false ∧ s.memoryData = none) ∧
  ∀ (octets : List Octet) (s : State) (begun : Nat), s.startUp.phase = .reading → s.startUp.attemptBegan = some begun →
    ∀ (due : Nat) (block : Option (List Octet)),
    ((∃ j : Fin 8, s.startUp.answered = some j ∧ due = begun + 753 + j.val ∧ block = some octets) ∨
      (s.startUp.answered = none ∧ s.startUp.attempts = 3 ∧ due = begun + 32 ∧ block = none)) →
    s.timeBase ≤ due →
    ∃ t, exec (.readOutcome octets) s = .next t ∧
      Keeps [.timeBase, .startUp, .neighbours, .settling, .chains, .ports, .requests] s t ∧
      t.timeBase = due ∧
      t.startUp = { s.startUp with
        phase := .powering, octets := block.getD [],
        applied := some (appliedOf s.ownAddress block).options, waitEnd := some (due + 20000) } ∧
      t.neighbours = { s.neighbours with
        windows := (appliedOf s.ownAddress block).windows, ownSlot := (appliedOf s.ownAddress block).ownSlot } ∧
      (∀ y, y = min (appliedOf s.ownAddress block).options.yStart (appliedOf s.ownAddress block).options.yPeak →
        t.settling = { s.settling with yOut := y, stage := { s.settling.stage with yOut := y } }) ∧
      (∀ c, t.chains.get c =
        if 0 < (appliedOf s.ownAddress block).options.tileCounts.get c then
          { s.chains.get c with state := .idle, pend := { (s.chains.get c).pend with census := true } }
        else s.chains.get c) ∧
      (∀ p, t.ports.get p = { s.ports.get p with supplyOn := (t.ports.get p).supplyOn } ∧
        ((t.ports.get p).supplyOn = true ↔ ∃ c, 0 < (appliedOf s.ownAddress block).options.tileCounts.get c ∧
          (appliedOf s.ownAddress block).options.crossbar.get c = p)) ∧
      t.requests = s.requests ++ madeNow t ((appliedOf s.ownAddress block).raises.map fun r =>
        (.configDefaulted, BitVec.ofNat 6 r.1, .raise (some (BitVec.ofNat 16 r.2))))

/-- SETTLING_WAIT_EXPIRY: at the end of the wait every block is released at one count: gate windows, beacon slots, the quarter-second
intervals, the pass interval, the scan interval and the chains' two intervals run from it, the shared PWM count starts from
0, the idle count starts from 0, and each used chain starts its census (R3, R17, R33, R57, R119, R121, R140, R142, R210). That the
start-up unit's reading state returns to its reset values here, and that the line's next sample is timed from the release until an edge is
seen, are the model's choices (log entries 12 and 29). -/
def Obligations.BlocksReleased : Prop :=
  ∀ (s : State) (w : Nat), s.startUp.phase = .powering → s.startUp.waitEnd = some w → s.timeBase ≤ w →
    (∀ c, if s.used c then (s.chains.get c).state = .idle ∧ (s.chains.get c).pend.census = true
      else (s.chains.get c).state = .off) →
    ∃ t, exec .settlingWaitExpiry s = .next t ∧
      Keeps [.timeBase, .pwmCount, .startUp, .sensors, .line, .wire, .neighbours, .settling, .chains, .scanner, .faults,
        .responder] s t ∧
      t.startUp = { s.startUp with
        phase := .running, attempts := 0, attemptBegan := none, answered := none, octets := [], waitEnd := none } ∧
      t.timeBase = w ∧ t.pwmCount = 0 ∧
      (∀ i, t.sensors.get i =
        if i.val < s.options.sensorCount then { s.sensors.get i with windowEnd := some (w + s.options.gate) }
        else s.sensors.get i) ∧
      t.wire = ⟨0, 0, w, none, false, false, false, .empty⟩ ∧
      t.line = { s.line with
        beaconDue := if s.line.listenOnly then none else some (w + s.ownAddress.toNat % 4 * 250000) } ∧
      t.neighbours = { s.neighbours with agingDue := some (w + 250000) } ∧
      t.settling = { s.settling with passDue := some (w + 250000) } ∧
      t.scanner = { s.scanner with scanDue := some (w + 250000) } ∧
      t.faults = { s.faults with agingDue := some (w + 250000) } ∧
      t.responder = { s.responder with agingDue := some (w + 250000) } ∧
      ∀ c, t.chains.get c = if s.used c then
          { s.chains.get c with
            state := .census, pend := { (s.chains.get c).pend with census := false }, bitCount := 0,
            lead := none, wordsDone := 0, entered := [], finalArrived := false, stalled := false, selected := some .census
            sweepDue := some (w + s.options.sweepSeconds * 1000000)
            testDue := some (w + s.options.testSeconds * 1000000) }
        else s.chains.get c

/-! ## What each command does: the sensor unit -/

/-- SENSOR_EDGE: the stamp decides the window (R19). An edge within the window in progress is counted there, sets the last stamp, and
the first stamp when it is the first; an edge stamped at or after the window's end waits for its own window. Edges share a stamp
four at most (R18); one stamped before the latest edge, and a fifth of one stamp, are no edges and change nothing (the model's
reading, log entry 15). An edge stamped before the window in progress finds none (the model's choice, log entry 9). -/
def Obligations.EdgeTakenIntoItsWindow : Prop :=
  (∀ (i : Fin 2) (stamp share : Nat) (s : State) (e : Nat), (s.sensors.get i).windowEnd = some e →
    (((s.sensors.get i).latest = none ∨ ∃ x k, (s.sensors.get i).latest = some (x, k) ∧ x < stamp) ∧ share = 1) ∨
      (∃ k, (s.sensors.get i).latest = some (stamp, k) ∧ k < 4 ∧ share = k + 1) →
    ∃ t, exec (.sensorEdge i stamp) s = .next t ∧ Keeps [.sensors] (s.arriveAt stamp) t ∧
      (∀ j, j ≠ i → t.sensors.get j = s.sensors.get j) ∧
      (stamp < e → e ≤ stamp + s.options.gate → t.sensors.get i = { s.sensors.get i with
        latest := some (stamp, share)
        window := { count := (s.sensors.get i).window.count + 1
                    first := some ((s.sensors.get i).window.first.getD stamp)
                    last := some stamp } }) ∧
      (e ≤ stamp → t.sensors.get i = { s.sensors.get i with
        latest := some (stamp, share), early := (s.sensors.get i).early ++ [stamp] }) ∧
      (stamp + s.options.gate < e → t.sensors.get i = s.sensors.get i)) ∧
  ∀ (i : Fin 2) (stamp x k : Nat) (s : State), (s.sensors.get i).latest = some (x, k) →
    stamp < x ∨ (stamp = x ∧ 4 ≤ k) →
    ∃ t, exec (.sensorEdge i stamp) s = .next t ∧ t.sensors = s.sensors

/-- GATE_WINDOW_END: a good window, of two edges or more, gives the code clamp(C − LOG32(max(floor(t / (n − 1)), 16)), 0, 671), a silent
count of 0 and VALID, and a withdraw of SENSOR_SILENT when the count was 3; a silent window keeps the code and counts up to 3, and
the count that reaches 3 makes the channel INVALID and raises SENSOR_SILENT; the next window begins at this end from empty
fields, with the edges already stamped within it (R11, R12, R17, R19 to R25). A_own is the floor of the mean of two VALID channels'
codes, the code of the one VALID channel, or absent (R26). -/
def Obligations.WindowOutcome : Prop :=
  (∀ (i : Fin 2) (s : State) (e : Nat), (s.sensors.get i).windowEnd = some e →
    ∃ t, exec (.gateWindowEnd i) s = .next t ∧ Keeps [.sensors, .requests] (s.arriveAt e) t ∧
      (∀ j, j ≠ i → t.sensors.get j = s.sensors.get j) ∧
      (t.sensors.get i).windowEnd = some (e + s.options.gate) ∧
      (2 ≤ (s.sensors.get i).window.count →
        (t.sensors.get i).lastCode = some (min 671 (s.options.sensorConstants.get i -
          log32 (max (((s.sensors.get i).window.last.getD 0 - (s.sensors.get i).window.first.getD 0) /
            ((s.sensors.get i).window.count - 1)) 16))) ∧
        (t.sensors.get i).silent = 0 ∧ (t.sensors.get i).state = .valid ∧
        t.requests = s.requests ++ (if (s.sensors.get i).silent = 3 then
          madeNow t [(.sensorSilent, BitVec.ofNat 6 i.val, .withdraw)] else [])) ∧
      ((s.sensors.get i).window.count < 2 →
        (t.sensors.get i).lastCode = (s.sensors.get i).lastCode ∧
        (t.sensors.get i).silent =
          (if (s.sensors.get i).silent < 3 then (s.sensors.get i).silent + 1 else (s.sensors.get i).silent) ∧
        (t.sensors.get i).state = (if (s.sensors.get i).silent = 2 then .invalid else (s.sensors.get i).state) ∧
        t.requests = s.requests ++ (if (s.sensors.get i).silent = 2 then
          madeNow t [(.sensorSilent, BitVec.ofNat 6 i.val, .raise none)] else [])) ∧
      (t.sensors.get i).early = (s.sensors.get i).early.filter (fun x => e + s.options.gate ≤ x) ∧
      (t.sensors.get i).window =
        { count := ((s.sensors.get i).early.filter fun x => x < e + s.options.gate).length
          first := ((s.sensors.get i).early.filter fun x => x < e + s.options.gate).head?
          last := ((s.sensors.get i).early.filter fun x => x < e + s.options.gate).getLast? } ∧
      (t.sensors.get i).latest = (s.sensors.get i).latest) ∧
  ∀ s : State,
    (∀ a b, (s.sensors.get 0).state = .valid → (s.sensors.get 0).lastCode = some a →
      (s.sensors.get 1).state = .valid → (s.sensors.get 1).lastCode = some b → s.ownAmbient = some ((a + b) / 2)) ∧
    (∀ i j a, i ≠ j → (s.sensors.get i).state = .valid → (s.sensors.get i).lastCode = some a →
      (s.sensors.get j).state = .invalid → s.ownAmbient = some a) ∧
    ((∀ i, (s.sensors.get i).state = .invalid) → s.ownAmbient = none)

/-! ## What each command does: the line controller -/

/-- Samples: a recessive one raises the idle count, which holds at 12, and returns the stuck count to 0; a dominant one raises the stuck
count, which holds at 65, and returns the idle count to 0; a run's first one shows its edge, and on an idle line begins the first
character of a frame; the assembler takes each other one (R32, R33, R39, R41). Samples follow one another by a bit time; a character's
leave the same counts whatever came before its start bit's recessive sample. Where other stations may drive the line, the next sample
falls in the middle of the bit that the next edge begins, or a bit time after the latest; on an idle line it is recessive and an edge
only moves the sampling instant (R32, R33); its level and edges are free values, but the line stays recessive at 12 and dominant at 65
until the command of that event (the model's choice, log entry 5). LINE_IDLE: recessive samples bring the idle count to 12; a frame in
assembly is counted bad, and a suspension ends with a withdraw of LINE_STUCK (R33, R39, R41); a good frame that is then complete comes
first (the model's choice, log entry 8). LINE_LEAVES_IDLE: a dominant sample, and a character begins (R33, R41). STUCK_DOMINANT: dominant
samples bring the stuck count to 65, or, when the command of that run has come, a recessive sample and a fresh run do; transmission is
suspended and LINE_STUCK is raised (R39, R40). -/
def Obligations.LineLevels : Prop :=
  (∀ (w : LineSamples) (bit now : Nat),
    w.sample bit now .recessive = { w with
      idleCount := min (w.idleCount + 1) 12, stuckCount := 0, sampledAt := now, stuck := false
      assembler := w.assembler.take .recessive } ∧
    w.sample bit now .dominant = { w with
      idleCount := 0, stuckCount := min (w.stuckCount + 1) 65, sampledAt := now
      edge := if w.stuckCount = 0 then some (now - bit / 2) else w.edge, idle := false
      assembler := if w.idle then .within [] [] else w.assembler.take .dominant } ∧
    w.readFrom bit now [] = w ∧
    (∀ ls l, w.readFrom bit now (ls ++ [l]) = (w.readFrom bit now ls).sample bit (now + ls.length * bit) l) ∧
    (∀ o stop v, w.stuckCount = 0 → v = LineSamples.reset.readFrom bit now (characterLevels o stop) →
      (w.readFrom bit now (characterLevels o stop)).idleCount = v.idleCount ∧
        (w.readFrom bit now (characterLevels o stop)).stuckCount = v.stuckCount) ∧
    ∀ next edge,
      (∀ x, Config.heardEdge w.sampledAt = some x → x < bit →
        next = w.sampledAt + x + bit / 2 ∧ edge = some (w.sampledAt + x)) →
      ((∀ x, Config.heardEdge w.sampledAt = some x → bit ≤ x) → next = w.sampledAt + bit ∧ edge = w.edge) →
      (∀ t n, w.heardUntil bit t (n + 1) = if next ≤ t then (w.heardSample bit).heardUntil bit t n else w) ∧
      (∀ t, w.heardUntil bit t 0 = w) ∧
      w.heardSample bit =
        if w.idleCount = 12 then { w with sampledAt := next, edge := edge }
        else if (w.stuckCount = 65 ∧ w.stuck = false) ∨ Config.heardDominant next = true then
          LineSamples.sample bit next { w with edge := edge } .dominant
        else LineSamples.sample bit next { w with edge := edge } .recessive) ∧
  (∀ (s u : State) (bit : Nat) (w : LineSamples), s.running = true → s.wire.idle = false → s.line.sending = false →
    bit = bitTimeOf s.options.lineRate →
    w = s.wire.readFrom bit (s.wire.sampledAt + bit) (List.replicate (12 - s.wire.idleCount) .recessive) →
    u = s.arriveAt (s.wire.sampledAt + (12 - s.wire.idleCount) * bit) →
    ((∃ octets, w.assembler = .ended octets .complete ∧ octetSum octets = 255) → exec .lineIdle s = .next s) ∧
    ((∀ octets, w.assembler = .ended octets .complete → octetSum octets ≠ 255) →
      ∃ t, exec .lineIdle s = .next t ∧ Keeps [.line, .wire, .requests] u t ∧
        t.wire = { w with quiet := false, idle := true, assembler := .empty } ∧
        (s.wire.idleCount ≤ 12 → t.wire.idleCount = 12) ∧
        t.line = { s.line with
          suspended := false
          counters := { s.line.counters with
            bad := if w.assembler = .empty ∨ w.assembler = .ignoring then s.line.counters.bad
              else min (s.line.counters.bad + 1) 65535 } } ∧
        t.requests = s.requests ++ (if s.line.suspended then madeNow t [(.lineStuck, 0, .withdraw)] else []))) ∧
  (∀ s : State, s.running = true → s.wire.idle = true → s.line.sending = false →
    ∃ t, exec .lineLeavesIdle s = .next t ∧ Keeps [.wire] s t ∧
      t.wire = ⟨0, min (s.wire.stuckCount + 1) 65, s.timeBase,
        if s.wire.stuckCount = 0 then some (s.timeBase - bitTimeOf s.options.lineRate / 2) else s.wire.edge, false,
        false, s.wire.stuck, .within [] []⟩) ∧
  ∀ (s u : State) (bit : Nat) (levels : List Level) (w : LineSamples), s.running = true → s.line.sending = false →
    bit = bitTimeOf s.options.lineRate →
    levels = (if s.wire.stuck then .recessive :: List.replicate 65 .dominant
      else List.replicate (65 - s.wire.stuckCount) .dominant) →
    w = s.wire.readFrom bit (s.wire.sampledAt + bit) levels →
    u = s.arriveAt (s.wire.sampledAt + levels.length * bit) →
    ∃ t, exec .stuckDominant s = .next t ∧ Keeps [.line, .wire, .requests] u t ∧
      t.wire = { w with quiet := false, stuck := true } ∧
      (s.wire.Sound → t.wire.stuckCount = 65 ∧ t.wire.idleCount = 0) ∧
      t.line = { s.line with suspended := true } ∧
      t.requests = s.requests ++ madeNow t [(.lineStuck, 0, .raise none)]

/-- FRAME_START: a ready station on an idle line starts its frame in flight, or the front of the waiting order, which leaves it and takes
abort count 0, and drives the start bit, whose edge times the samples from now on (R32); the idle count stands at 12, and no character
has begun, until that bit is sampled dominant (R33, R41); a station that is listen-only, suspended or without a frame does not start
(R34, R39, R54), and that the command then changes nothing is the model's choice (log entry 1). That a station whose own start bit has just met a bit error, on a line
still idle, starts as any other, and its aborted bit gives way to the new start bit, is the model's choice (log entry 27). -/
def Obligations.FrameStarts : Prop :=
  (∀ s : State, s.running = true → s.wire.idle = true → s.line.sending = false → s.line.listenOnly = false →
    s.line.suspended = false →
    ∀ f rest, (s.line.flight = some f ∧ s.line.queue = rest) ∨
        (s.line.flight = none ∧ f.aborts = 0 ∧ s.line.queue = f.frame :: rest) →
      ∃ t, exec .frameStart s = .next t ∧ Keeps [.line, .wire] s t ∧ t.drives = .dominant ∧
        t.wire = ⟨12, 0, s.timeBase, some s.timeBase, false, true, false, .empty⟩ ∧
        t.line = { s.line with
          flight := some f, queue := rest, sending := true, startedAt := s.timeBase, drivesUntil := none }) ∧
  ∀ s : State, s.line.listenOnly = true ∨ s.line.suspended = true ∨ s.wire.idle = false ∨ s.line.sending = true ∨
      (s.line.flight = none ∧ s.line.queue = []) → exec .frameStart s = .next s

/-- ARBITRATION_LOSS: at the middle of a data bit of the two key characters that it sent recessive, which reads dominant, the station
stops driving, counts the loss, and keeps its frame in flight with its abort count (R36). BIT_ERROR: at the middle of any other bit of
the frame, which reads other than sent, it counts the abort, returns the clean-send run to 0, and stops driving from the next bit; the
frame stays in flight up to its second abort, and at its third it is dropped, counted, and LINE_ERROR raised with its kind (R37, R38).
The samples are those of the bits before the mismatch as sent, and of that bit at the level it reads, from a line that was idle: a start
bit that reads recessive leaves it so (R32, R33, R41). Where no bit that is still to be sampled can so mismatch the command changes
nothing (log entry 1); that the mismatch falls at the first bit that can is the model's choice (log entry 22). -/
def Obligations.LossesAndAborts : Prop :=
  ∀ (s : State) (f : Flight) (bit : Nat) (middle : Nat → Nat) (loses : Nat → Prop) (before : LineSamples),
    s.running = true → s.line.sending = true → s.line.flight = some f → bit = bitTimeOf s.options.lineRate →
    (∀ k, middle k = s.line.startedAt + k * bit + bit / 2) →
    (∀ k, loses k ↔ ((1 ≤ k ∧ k ≤ 8) ∨ (11 ≤ k ∧ k ≤ 18)) ∧ f.frame.levels[k]? = some .recessive) →
    before = ⟨12, 0, s.line.startedAt, some s.line.startedAt, false, true, false, .empty⟩ →
    (∀ k u, loses k → s.timeBase ≤ middle k → (∀ j, j < k → loses j → middle j < s.timeBase) → u = s.arriveAt (middle k) →
      ∃ t, exec .arbitrationLoss s = .next t ∧ Keeps [.line, .wire] u t ∧
        t.wire = before.readFrom bit (middle 0) (f.frame.levels.take k ++ [.dominant]) ∧
        t.line = { s.line with
          sending := false, counters := { s.line.counters with lost := min (s.line.counters.lost + 1) 65535 } }) ∧
    ((∀ k, loses k → middle k < s.timeBase) → exec .arbitrationLoss s = .next s) ∧
    (∀ k level other stop u, f.frame.levels[k]? = some level → other ≠ level → ¬loses k → s.timeBase ≤ middle k →
      (∀ j, j < k → ¬loses j → middle j < s.timeBase) → u = s.arriveAt (middle k) →
      stop = (if level = .dominant then some (s.line.startedAt + (k + 1) * bit) else none) →
      ∃ t, exec .bitError s = .next t ∧ Keeps [.line, .wire, .requests] u t ∧
        t.wire = before.readFrom bit (middle 0) (f.frame.levels.take k ++ [other]) ∧
        (f.aborts + 1 < 3 → t.requests = s.requests ∧ t.line = { s.line with
          sending := false, drivesUntil := stop, cleanRun := 0, flight := some { f with aborts := f.aborts + 1 }
          counters := { s.line.counters with aborts := min (s.line.counters.aborts + 1) 65535 } }) ∧
        (3 ≤ f.aborts + 1 → t.line = { s.line with
            sending := false, drivesUntil := stop, cleanRun := 0, flight := none
            counters := { s.line.counters with
              aborts := min (s.line.counters.aborts + 1) 65535
              drops := min (s.line.counters.drops + 1) 65535 } } ∧
          t.requests = s.requests ++
            madeNow t [(.lineError, 0, .raise (some (BitVec.ofNat 16 f.frame.kind.code)))])) ∧
    ((∀ k, k < f.frame.levels.length → ¬loses k → middle k < s.timeBase) → exec .bitError s = .next s)

/-- FRAME_SENT: at the middle of the check character's stop bit the frame leaves the frame in flight, is counted and lengthens the
clean-send run, which holds at 16; the rise from 15 to 16 withdraws LINE_ERROR; the station's own assembler is empty and counts no
frame received (R32, R35, R38, R41, R42). The counts and the latest edge are those of the whole frame's samples (R32, R33, R39), after
which no station drives the line until it is idle (the model's choice, log entry 5). -/
def Obligations.FrameIsSent : Prop :=
  ∀ (s : State) (f : Flight) (due : Nat), s.running = true → s.line.sending = true → s.line.flight = some f →
    due = s.line.startedAt + 10 * (f.frame.payload.length + 4) * bitTimeOf s.options.lineRate -
      bitTimeOf s.options.lineRate / 2 →
    ∃ t, exec .frameSent s = .next t ∧ Keeps [.line, .wire, .requests] (s.arriveAt due) t ∧
      (∀ bit, bit = bitTimeOf s.options.lineRate →
        t.wire = { LineSamples.readFrom bit (s.line.startedAt + bit / 2) f.frame.levels
            ⟨12, 0, s.line.startedAt, some s.line.startedAt, false, true, false, .empty⟩ with
          sampledAt := due, quiet := true, assembler := .empty }) ∧
      t.line = { s.line with
        flight := none, sending := false, cleanRun := min (s.line.cleanRun + 1) 16
        counters := { s.line.counters with sent := min (s.line.counters.sent + 1) 65535 } } ∧
      t.requests = s.requests ++ (if s.line.cleanRun = 15 then madeNow t [(.lineError, 0, .withdraw)] else [])

/-- The receive assembler: a dominant sample between two characters is a start bit, and recessive ones are a gap; eight data samples
and the stop sample follow it; a dominant stop sample is a framing error; the third character is the length, a bad one above 24; and the
frame is complete with length + 4 characters (R41). FRAME_DISCARD: at a framing error, a bad length, the line becoming idle before the
frame is complete, or a complete frame's bad sum, the frame is counted bad, and no further characters are taken until the line next
becomes idle (R41, R42). FRAME_RECEIVED: a good frame that is not held back is counted once and handed on by its kind: a BEACON or a CAP
whose payload has the kind's fixed part is the command of its row, and a QUERY is FAULTS, TILE, TILE_DETAIL, VIEW, LEVELS, CHAIN or LINE
by its item where its argument is in range, and QUERY_BAD_ITEM otherwise (R184); a shorter one, a FAULT NOTICE, a REPLY and a frame of
any other kind go no further (R42, R43, R47, R49, R50). Each falls at the last sample of its characters, of which those read so far are
the first; that the rest follow back to back, that a frame is not heard while the station sends, and that a row's command stands for a
frame of the fixed part alone, in its kind's urgency, is the model's reading (log entry 7). -/
def Obligations.FramesHandedOn : Prop :=
  (∀ (cs : List Octet) (read : List Level → Assembler), (∀ ls, read ls = ls.foldl (fun a l => a.take l) (.between cs)) →
    (∀ n, read (List.replicate n .recessive) = .between cs) ∧ read [.dominant] = .within cs [] ∧
    ∀ o, (∀ n, n ≤ 8 → read ((characterLevels o .recessive).take (n + 1)) =
        .within cs ((List.range n).map fun i => if o.getMsbD i then .recessive else .dominant)) ∧
      read (characterLevels o .dominant) = .ended (cs ++ [o]) .framingError ∧
      (cs.length < 2 → read (characterLevels o .recessive) = .between (cs ++ [o])) ∧
      ∀ n, (cs ++ [o])[2]? = some n → read (characterLevels o .recessive) =
        if 24 < n.toNat then .ended (cs ++ [o]) .badLength
        else if n.toNat + 4 ≤ cs.length + 1 then .ended (cs ++ [o]) .complete
        else .between (cs ++ [o])) ∧
  (∀ (octets : List Octet) (cause : DiscardCause) (s : State) (levels read more : List Level) (v w : LineSamples) (bit : Nat),
    s.running = true → s.line.sending = false → s.wire.Sound → bit = bitTimeOf s.options.lineRate →
    s.wire.assembler.read = some read → levels = read ++ more →
    v = s.wire.readFrom bit (s.wire.sampledAt + bit) more →
    ((cause = .framingError octets ∧ octets ≠ [] ∧ beginsFrame octets.dropLast = true ∧
        levels = (charactersLevels octets).dropLast ++ [.dominant] ∧ w = v) ∨
      (cause = .badLength octets ∧ octets.length = 3 ∧ (∃ n, octets[2]? = some n ∧ 24 < n.toNat) ∧
        levels = charactersLevels octets ∧ w = v) ∨
      (cause = .idleBeforeComplete octets ∧ octets ≠ [] ∧ beginsFrame octets = true ∧ levels = charactersLevels octets ∧
        w = v.readFrom bit (v.sampledAt + bit) (List.replicate (12 - v.idleCount) .recessive)) ∨
      (cause = .badCheck octets ∧ completeFrame octets = true ∧ octetSum octets ≠ 255 ∧ levels = charactersLevels octets ∧
        w = v)) →
    ∃ t, exec (.frameDiscard cause) s = .next t ∧ Keeps [.line, .wire] (s.arriveAt w.sampledAt) t ∧
      t.wire = { w with quiet := decide (cause = .badCheck octets), assembler := .ignoring } ∧
      t.line = { s.line with
        counters := { s.line.counters with bad := min (s.line.counters.bad + 1) 65535 } }) ∧
  ∀ (kind : FrameClass) (sender : Addr) (payload : List Octet) (s u : State),
    s.Hears (frameOctets (keyOf kind.urgency sender kind.code) payload) u → s.NotHeldBack sender → payload.length ≤ 24 →
    ((kind.code.toNat ≠ 1 ∧ kind.code.toNat ≠ 3 ∧ kind.code.toNat ≠ 4) ∨ (kind.code.toNat = 1 ∧ payload.length < 12) ∨
        (kind.code.toNat = 3 ∧ payload.length < 9) ∨ (kind.code.toNat = 4 ∧ payload.length < 5) →
      ∃ t, exec (.frameReceived kind sender payload) s = .next t ∧ Keeps [.line] u t ∧ t.line = s.line.afterGood) ∧
    ∀ (row : Instr) (fixed : Frame),
      (kind.code.toNat = 1 ∧ ∃ b, beaconOf payload = some b ∧ row = .beaconReceived sender b ∧
        fixed = ⟨.routine, sender, .beacon, beaconOctets b⟩) ∨
      (kind.code.toNat = 3 ∧ ∃ c d, capOf payload = some (c, d) ∧
        row = (if d = 0 then .capCancel sender c else .capSetting sender c d) ∧
        fixed = ⟨.order, sender, .cap, capOctets c d⟩) ∨
      (kind.code.toNat = 4 ∧ ∃ q, queryOf sender payload = some q ∧ fixed = ⟨.order, sender, .query, queryOctets q⟩ ∧
        row =
          if q.item = 1 ∧ q.argument.toNat < 8 then .faults sender q.target q.argument q.tag
          else if q.item = 2 ∧ q.argument.toNat < 64 then .tile sender q.target q.argument q.tag
          else if q.item = 3 ∧ q.argument.toNat < 64 then .tileDetail sender q.target q.argument q.tag
          else if q.item = 4 ∧ q.argument.toNat < 32 then .view sender q.target q.argument q.tag
          else if q.item = 5 then .levels sender q.target q.argument q.tag
          else if q.item = 6 ∧ q.argument.toNat < 4 then .chain sender q.target q.argument q.tag
          else if q.item = 7 then .line sender q.target q.argument q.tag
          else .queryBadItem sender q.target q.item q.argument q.tag) →
      ∀ r v : State, r.Hears fixed.octets v → v = { u with wire := v.wire } →
      ∃ t z, exec (.frameReceived kind sender payload) s = .next t ∧ exec row r = .next z ∧ Keeps [.wire] z t ∧ t.wire = u.wire

/-- A good frame that bears the station's own address is held back whatever its kind: it is counted, raises ADDRESS_CLASH with its kind
and starts the clash quiet timer afresh at 60 s, and nothing else comes of it but the samples of its characters; CLASH_QUIET_EXPIRY
withdraws ADDRESS_CLASH and stops the timer (R42, R44, R45). -/
def Obligations.OwnAddressHeard : Prop :=
  (∀ (kind : BitVec 4) (s u : State) (c : Instr) (octets : List Octet) (own : Addr), s.Hears octets u →
    s.line.listenOnly = false → own = s.ownAddress →
    ((∃ (m : BitVec 2) (payload : List Octet), payload.length ≤ 24 ∧ c = .frameReceived ⟨m, kind⟩ own payload ∧
        octets = frameOctets (keyOf m own kind) payload) ∨
      (kind = 1 ∧ ∃ b, c = .beaconReceived own b ∧ octets = Frame.octets ⟨.routine, own, .beacon, beaconOctets b⟩) ∨
      (kind = 3 ∧ ∃ k d, (c = .capSetting own k d ∨ (c = .capCancel own k ∧ d = 0)) ∧
        octets = Frame.octets ⟨.order, own, .cap, capOctets k d⟩) ∨
      (kind = 4 ∧ ∃ q : Query, q.asker = own ∧ octets = Frame.octets ⟨.order, own, .query, queryOctets q⟩ ∧
        (c = .queryBadItem own q.target q.item q.argument q.tag ∨
          (q.item = 1 ∧ c = .faults own q.target q.argument q.tag) ∨
          (q.item = 2 ∧ c = .tile own q.target q.argument q.tag) ∨
          (q.item = 3 ∧ c = .tileDetail own q.target q.argument q.tag) ∨
          (q.item = 4 ∧ c = .view own q.target q.argument q.tag) ∨
          (q.item = 5 ∧ c = .levels own q.target q.argument q.tag) ∨
          (q.item = 6 ∧ c = .chain own q.target q.argument q.tag) ∨
          (q.item = 7 ∧ c = .line own q.target q.argument q.tag)))) →
    ∃ t, exec c s = .next t ∧ Keeps [.line, .requests] u t ∧
      t.line = { s.line.afterGood with clashEnd := some (u.timeBase + 60000000) } ∧
      t.requests = s.requests ++ madeNow t [(.addressClash, 0, .raise (some (kind.setWidth 16)))]) ∧
  ∀ (s : State) (e : Nat), s.line.clashEnd = some e →
    ∃ t, exec .clashQuietExpiry s = .next t ∧ Keeps [.line, .requests] (s.arriveAt e) t ∧
      t.line = { s.line with clashEnd := none } ∧
      t.requests = s.requests ++ madeNow t [(.addressClash, 0, .withdraw)]

/-- BEACON_BUILD: at its slot the station offers a ROUTINE BEACON of the values as they stand, under its present sequence number, which
then rises by 1 mod 256; the next slot falls one second later; a listen-only station builds none (R3, R54, R55). -/
def Obligations.BeaconIsBuilt : Prop :=
  (∀ (s : State) (d : Nat), s.line.beaconDue = some d → s.line.listenOnly = false →
    ∃ t, exec .beaconBuild s = .next t ∧ Keeps [.line] (s.arriveAt d) t ∧
      t.line = LineControl.offer
        { urgency := .routine, sender := s.ownAddress, kind := .beacon
          payload := [BitVec.ofNat 8 s.settling.mode.code] ++ twoOctets s.settling.yOut ++
            twoOctets (s.ownAmbient.getD 0x3FF) ++ twoOctets ((s.cap.record.map CapRecord.level).getD 0x3FF) ++
            twoOctets ((s.cap.record.map CapRecord.remaining).getD 0) ++
            [BitVec.ofNat 8 s.faults.activeCount, summaryOctet s.faults.highest s.faults.overflow,
              BitVec.ofNat 8 s.line.seq] }
        { s.line with seq := (s.line.seq + 1) % 256, beaconDue := some (d + 1000000) }) ∧
  ∀ s : State, s.line.listenOnly = true → exec .beaconBuild s = .next s

/-! ## What each command does: neighbours, caps and aging -/

/-- BEACON_RECEIVED: a beacon of another station that a window admits and whose mode code names a mode makes or updates the record of
its slot: the published values corrected into their ranges, the sequence gap added to the missed-beacon count of an existing
record, age 0 and FRESH; any other beacon changes no record (R59, R65 to R68). That a cap level of 0x3FF with time
remaining is read as 511 is the model's reading (log entry 13). -/
def Obligations.BeaconAdmitted : Prop :=
  ∀ (sender : Addr) (b : BeaconWire) (s u : State), s.Hears (Frame.octets ⟨.routine, sender, .beacon, beaconOctets b⟩) u →
    s.NotHeldBack sender →
    ∃ t, exec (.beaconReceived sender b) s = .next t ∧ Keeps [.line, .neighbours] u t ∧ t.line = s.line.afterGood ∧
      (sender = s.ownAddress ∨ translate s.neighbours.windows sender = none ∨ 3 < b.mode.toNat →
        t.neighbours = s.neighbours) ∧
      ∀ i, sender ≠ s.ownAddress → translate s.neighbours.windows sender = some i → b.mode.toNat ≤ 3 →
        ∃ n, t.neighbours = { s.neighbours with slots := s.neighbours.slots.set i (some n) } ∧
          n.sender = sender ∧ n.mode.code = b.mode.toNat ∧ n.yOut = min b.yOut.toNat 511 ∧
          n.ambient = (if b.ambient.toNat ≤ 671 then some b.ambient.toNat else none) ∧
          n.cap = (if b.capRemaining.toNat = 0 then none
            else some (min b.capLevel.toNat 511, min b.capRemaining.toNat 14400)) ∧
          n.activeCount = min b.activeCount.toNat 24 ∧
          (n.severity.isNone = true ↔ b.activeCount.toNat = 0) ∧
          (∀ v, n.severity = some v → v.code = max 1 (b.summary.toNat % 4)) ∧
          n.overflow = decide (128 ≤ b.summary.toNat) ∧ n.seq = b.seq.toNat ∧ n.age = 0 ∧ n.freshness = .fresh ∧
          (s.neighbours.slots.get i = none → n.missed = 0) ∧
          ∀ o, s.neighbours.slots.get i = some o → o.seq ≤ 255 →
            n.missed = min (o.missed + (b.seq.toNat + 255 - o.seq) % 256) 255

/-- CAP_SETTING: a matching CAP of duration above 0 replaces the cap record whole, its level at most 511 and its remaining time
4 × duration, at most 14 400 (R104, R105, R107). CAP_CANCEL: a matching CAP of duration 0 removes the record, whatever its source,
level and flags (R106). A CAP that does not match leaves it (R105). -/
def Obligations.CapsTaken : Prop :=
  ∀ (sender : Addr) (k : CapWire) (s u : State) (d : BitVec 16),
    s.Hears (Frame.octets ⟨.order, sender, .cap, capOctets k d⟩) u → s.NotHeldBack sender →
    (d ≠ 0 →
      ∃ t, exec (.capSetting sender k d) s = .next t ∧ Keeps [.line, .cap] u t ∧ t.line = s.line.afterGood ∧
        t.cap.countDue = s.cap.countDue ∧
        t.cap.record =
          if s.ownAddress.toNat &&& k.mask.toNat % 1024 = k.base.toNat % 1024 &&& k.mask.toNat % 1024 then
            some { level := min k.level.toNat 511, blank := k.flags.getLsbD 0, immediate := k.flags.getLsbD 1,
                   remaining := 4 * min d.toNat 3600, source := sender }
          else s.cap.record) ∧
    (d = 0 →
      ∃ t, exec (.capCancel sender k) s = .next t ∧ Keeps [.line, .cap] u t ∧ t.line = s.line.afterGood ∧
        t.cap.countDue = s.cap.countDue ∧
        t.cap.record =
          if s.ownAddress.toNat &&& k.mask.toNat % 1024 = k.base.toNat % 1024 &&& k.mask.toNat % 1024 then none
          else s.cap.record)

/-- The quarter-second counts. NEIGHBOUR_AGING: every record ages by 1, is removed at 4 × evict seconds, and is FRESH while its age is at
most 4 × stale seconds (R69 to R71). CAP_COUNTDOWN: the remaining time falls by 1 and the record goes at 0 (R108).
FAULT_CLEARED_AGING: CLEARED records age by 1 and go at 120, ACTIVE ones are passed over, and the overflow flag is cleared when 20
records or fewer are left (R171, R175). DEFERRED_READY_AGING: a READY or FAILED record ages by 1 and goes at 32, a WAITING one stays
(R197). Each next expiry falls a quarter-second after the one before (R3). -/
def Obligations.QuarterSecondCounts : Prop :=
  (∀ (s : State) (d : Nat), s.neighbours.agingDue = some d →
    ∃ t, exec .neighbourAging s = .next t ∧ Keeps [.neighbours] (s.arriveAt d) t ∧
      t.neighbours.windows = s.neighbours.windows ∧ t.neighbours.ownSlot = s.neighbours.ownSlot ∧
      t.neighbours.agingDue = some (d + 250000) ∧
      (∀ i, s.neighbours.slots.get i = none → t.neighbours.slots.get i = none) ∧
      ∀ i n, s.neighbours.slots.get i = some n → t.neighbours.slots.get i =
        if n.age + 1 < 4 * s.options.evictSeconds then
          some { n with
            age := n.age + 1, freshness := if n.age + 1 ≤ 4 * s.options.staleSeconds then .fresh else .stale }
        else none) ∧
  (∀ (s : State) (d : Nat), s.cap.countDue = some d →
    ∃ t, exec .capCountdown s = .next t ∧ Keeps [.cap] (s.arriveAt d) t ∧ t.cap.countDue = some (d + 250000) ∧
      (s.cap.record = none → t.cap.record = none) ∧
      ∀ r, s.cap.record = some r → t.cap.record =
        if 1 < r.remaining then some { r with remaining := r.remaining - 1 } else none) ∧
  (∀ (s : State) (d : Nat), s.faults.agingDue = some d →
    ∃ t, exec .faultClearedAging s = .next t ∧ Keeps [.faults] (s.arriveAt d) t ∧
      t.faults.agingDue = some (d + 250000) ∧ t.faults.output = s.faults.output ∧
      t.faults.records =
        (s.faults.records.filter fun r => r.state = .active ∨ r.clearedAge + 1 < 120).map (fun r =>
          if r.state = .active then r else { r with clearedAge := r.clearedAge + 1 }) ∧
      (t.faults.overflow = true ↔ s.faults.overflow = true ∧ 20 < t.faults.records.length)) ∧
  ∀ (s : State) (d : Nat), s.responder.agingDue = some d →
    ∃ t, exec .deferredReadyAging s = .next t ∧ Keeps [.responder] (s.arriveAt d) t ∧
      t.responder.agingDue = some (d + 250000) ∧
      (s.responder.deferred = none → t.responder.deferred = none) ∧
      ∀ r, s.responder.deferred = some r → t.responder.deferred =
        if r.state = .waiting then some r
        else if r.readyAge + 1 < 32 then some { r with readyAge := r.readyAge + 1 } else none

/-! ## What each command does: the settling pass -/

/-- SETTLING_PASS: the mode is DARK under a dark cause, else STARTING for the first 8 passes, else HELD without A_pool, else REGULATING
(R83 to R85); Y_out moves as `nextOut` says (R89, R97), the held ceiling and hold count follow the mode (R86 to R88), the stage
record is written whole with derate 32 under an ACTIVE THERMAL_WARN, else 16 under SUPPLY_DROOP, else 0 (R91, R101, R176), and
each used chain is posted its duty word, which becomes its D_c (R99, R100); the next pass falls 250 ms later (R76). -/
def Obligations.PassSettles : Prop :=
  ∀ (s : State) (d : Nat), s.settling.passDue = some d → ∃ t mode,
    exec .settlingPass s = .next t ∧ Keeps [.settling, .chains] (s.arriveAt d) t ∧
    (mode = .dark ↔
      (∃ r ∈ s.faults.records, r.state = .active ∧ r.kind = .thermalCrit) ∨
      (∃ r, s.cap.record = some r ∧ r.blank = true) ∨
      ((∃ c, s.used c = true) ∧ ∀ c, s.used c = true → ∃ r ∈ s.faults.records,
        r.state = .active ∧ r.kind = .chainDown ∧ r.source = BitVec.ofNat 6 c.val)) ∧
    (mode ≠ .dark → mode =
      if s.settling.passes < 8 then .starting
      else if poolAmbientCode s.options s.passInputs = none then .held else .regulating) ∧
    t.settling.mode = mode ∧ t.settling.passes = min (s.settling.passes + 1) 8 ∧
    t.settling.yOut = nextOut s.options s.passInputs s.settling mode ∧
    t.settling.heldCeiling =
      (if mode = .regulating then ceiling s.options s.passInputs else s.settling.heldCeiling) ∧
    t.settling.holdCount =
      (if mode = .regulating then 0
        else if mode = .held then min (s.settling.holdCount + 1) (4 * s.options.holdSeconds)
        else s.settling.holdCount) ∧
    t.settling.passDue = some (d + 250000) ∧
    t.settling.stage =
      { mode := mode, aOwn := s.ownAmbient, aPool := poolAmbientCode s.options s.passInputs
        yCeil := ceiling s.options s.passInputs
        derate :=
          if ∃ r ∈ s.faults.records, r.state = .active ∧ r.kind = .thermalWarn then 32
          else if ∃ r ∈ s.faults.records, r.state = .active ∧ r.kind = .supplyDroop then 16 else 0
        capLevel := s.cap.record.map CapRecord.level
        upstream := (upstreamBound s.options s.passInputs mode).map (min 511)
        downstream := (downstreamBound s.options s.passInputs mode).map (min 511)
        yTarget := if mode = .dark then none else some (target s.options s.passInputs s.settling mode)
        yOut := t.settling.yOut } ∧
    ∀ c, (s.used c = false → t.chains.get c = (s.arriveAt d).chains.get c) ∧
      (s.used c = true → (s.chains.get c).state ≠ .off →
        t.chains.get c = { (s.arriveAt d).chains.get c with
          pend := { (s.chains.get c).pend with brightness := true }
          pendingValue := dutyOf s.options mode t.settling.yOut c
          duty := some (dutyOf s.options mode t.settling.yOut c) })

/-! ## What each command does: the chains -/

/-- OPERATION_START: an IDLE chain starts the highest of its pending requests in the order CENSUS, BRIGHTNESS, DETAIL, SWEEP, TEST, and a
DOWN chain a census; the request's flag is cleared and the operation begins at bit time 0 with the value or position its
request carried; a detail whose position is not present fails back and the chain stays IDLE; a chain in any other state
starts nothing (R116 to R119, R125, R130). That a chain whose detail failed back rests IDLE with its other requests pending until a further
OPERATION_START is the model's choice (log entry 10), and so is that the command changes nothing where nothing starts (log entry 1). At
running bit time 0 an operation sends the lead bit of 1 and from bit
time 1 its outgoing bits, most significant first: the brightness word, the select word, the test pattern, or for a CENSUS and a
SWEEP none; after them it sends 0 (R116, R132). The start sets the select outputs of the chain's port for its operation (R114); which
levels they show for each operation is a free value, and that they stand until the next start is the model's choice (log entry 28). -/
def Obligations.OperationStarts : Prop :=
  (∀ (c : Fin 4) (s : State), s.running = true → ∀ ch, ch = s.chains.get c → ∀ begun : ChainState → Chain,
    (∀ op, begun op = { ch with
      state := op, bitCount := 0, lead := none, wordsDone := 0, entered := [], finalArrived := false, stalled := false
      selected := some op }) →
    ∃ t, exec (.operationStart c) s = .next t ∧ KeepsButChain c [.responder] s t ∧
      ((ch.state = .idle ∨ ch.state = .down) → ch.pend.census = true →
        t.chains.get c = { begun .census with pend := { ch.pend with census := false } } ∧ t.responder = s.responder) ∧
      (ch.state = .idle → ch.pend.census = false →
        (ch.pend.brightness = true → t.responder = s.responder ∧ t.chains.get c =
          { begun .brightness with
            pend := { ch.pend with brightness := false }, sentValue := ch.pendingValue }) ∧
        (ch.pend.brightness = false → ch.pend.detail = true →
          (s.marked c ch.pendingPosition = true → t.responder = s.responder ∧ t.chains.get c =
            { begun .detail with
              pend := { ch.pend with detail := false }, sentPosition := ch.pendingPosition }) ∧
          (s.marked c ch.pendingPosition = false →
            t.chains.get c = { ch with pend := { ch.pend with detail := false } } ∧
            ∀ d, s.responder.deferred = some d → d.state = .waiting →
              t.responder.deferred = some { d with state := .failed, readyAge := 0 })) ∧
        (ch.pend.brightness = false → ch.pend.detail = false →
          (ch.pend.sweep = true → t.responder = s.responder ∧
            t.chains.get c = { begun .sweep with pend := { ch.pend with sweep := false } }) ∧
          (ch.pend.sweep = false → ch.pend.test = true → t.responder = s.responder ∧
            t.chains.get c = { begun .test with pend := { ch.pend with test := false } }) ∧
          (ch.pend.sweep = false → ch.pend.test = false → t = s))) ∧
      (ch.state = .down → ch.pend.census = false → t = s) ∧
      (ch.state ≠ .idle → ch.state ≠ .down → t = s)) ∧
  (∀ (c p : Fin 4) (s : State), s.used c = true → s.options.crossbar.get c = p →
    (∀ d, s.used d = true → s.options.crossbar.get d = p → d = c) →
    s.selectOutputs p = Config.selectLevels p.val ((s.chains.get c).selected.map ChainState.code)) ∧
  ∀ ch : Chain,
    (∀ word : BitVec 32,
      (ch.state = .brightness ∧ word = BitVec.ofNat 32 (ch.sentValue % 65536)) ∨
          (ch.state = .detail ∧ word = BitVec.ofNat 32 (ch.sentPosition % 16)) →
        ch.sends 0 = true ∧ (∀ k, k < 32 → ch.sends (k + 1) = word.getMsbD k) ∧ ∀ k, 32 < k → ch.sends k = false) ∧
    (ch.state = .test → ch.sends 0 = true ∧ (∀ k, k < 254 → testPattern[k]? = some (ch.sends (k + 1))) ∧
      ∀ k, 254 < k → ch.sends k = false) ∧
    (ch.state = .census ∨ ch.state = .sweep → ch.sends 0 = true ∧ ∀ k, 0 < k → ch.sends k = false) ∧
    (ch.state = .off ∨ ch.state = .idle ∨ ch.state = .down → ∀ k, ch.sends k = false)

/-- CENSUS_COMPLETE: a lead bit at bit time n of 1..64 makes n the census count; in order the chain raises TILE_COUNT with min(n, 16) or
withdraws it, withdraws CHAIN_DOWN and CHAIN_TIMEOUT, marks its first min(n, N_c) tiles present and the others absent, of which each
that was present has its reported conditions withdrawn and its record emptied, while one already so marked stays (R144), posts a sweep
and, when D_c is present, a brightness request with it, and is IDLE with its retry interval stopped (R122, R124, R139). Each bit time is half a
microsecond, here and in every operation (R2); that tiles are marked in ascending order of
position is the model's choice (log entry 14). -/
def Obligations.CensusCounts : Prop :=
  ∀ (c : Fin 4) (n : Nat) (s : State), s.running = true → (s.chains.get c).state = .census → 1 ≤ n → n ≤ 64 →
    ∃ t, exec (.censusComplete c n) s = .next t ∧
      KeepsButChain c [.collector, .requests] (s.passHalves (n - (s.chains.get c).bitCount)) t ∧
      t.chains.get c = { s.chains.get c with
        state := .idle, bitCount := 0, lead := none, wordsDone := 0, entered := [], finalArrived := false, stalled := false
        census := some n, retryDue := none
        pend := { (s.chains.get c).pend with
          sweep := true, brightness := (s.chains.get c).pend.brightness || (s.chains.get c).duty.isSome }
        pendingValue := (s.chains.get c).duty.getD (s.chains.get c).pendingValue } ∧
      t.requests = s.requests ++ madeNow t
        [(.tileCount, BitVec.ofNat 6 c.val,
            if n = s.options.tileCounts.get c then .withdraw else .raise (some (BitVec.ofNat 16 (min n 16)))),
          (.chainDown, BitVec.ofNat 6 c.val, .withdraw), (.chainTimeout, BitVec.ofNat 6 c.val, .withdraw)] ++
        madeNow t (absenceWithdraws s c (min n (s.options.tileCounts.get c))) ∧
      t.collector.pointer = s.collector.pointer ∧ t.collector.lastTake = s.collector.lastTake ∧
      (∀ d p, d ≠ c → t.collector.tiles.get (tileIndex d p) = s.collector.tiles.get (tileIndex d p)) ∧
      ∀ p present, present = decide (p.val < min n (s.options.tileCounts.get c)) →
        t.collector.tiles.get (tileIndex c p) =
          if (s.collector.tiles.get (tileIndex c p)).marked = present then s.collector.tiles.get (tileIndex c p)
          else { marked := present, readings := none, sweepsSince := 0, warnClear := 0
                 reported := ⟨false, false, false, false, false⟩ }

/-- CENSUS_UNUSABLE: at bit time 0 the census count becomes 0, without a lead bit by bit time 64 it becomes absent; the chain is DOWN,
its tiles are marked absent, with their reported conditions withdrawn and their records emptied (R144), CHAIN_DOWN is raised with detail 0
or 0xFFFF, a pending detail is failed back, the other pending flags are kept, and the retry interval runs from the entry to DOWN (R121 to
R123, R136). That tiles are marked, and their withdraws made, in ascending order of position and before CHAIN_DOWN is raised is the model's
choice (log entry 14), and so is that a retry interval begun at a half of a microsecond runs from the time base's count (log entry
23). -/
def Obligations.CensusFails : Prop :=
  ∀ (c : Fin 4) (back : Bool) (s : State), s.running = true → (s.chains.get c).state = .census →
    ∃ t, exec (.censusUnusable c back) s = .next t ∧
      KeepsButChain c [.collector, .requests, .responder]
        (s.passHalves ((if back then 0 else 64) - (s.chains.get c).bitCount)) t ∧
      t.chains.get c = { s.chains.get c with
        state := .down, bitCount := 0, lead := none, wordsDone := 0, entered := [], finalArrived := false, stalled := false
        census := if back then some 0 else none
        pend := { (s.chains.get c).pend with detail := false }
        retryDue := some ((s.chains.get c).retryDue.getD (t.timeBase + 10000000)) } ∧
      t.requests = s.requests ++ madeNow t (absenceWithdraws s c 0) ++ madeNow t
        [(.chainDown, BitVec.ofNat 6 c.val, .raise (some (if back then 0 else 0xFFFF)))] ∧
      t.collector.pointer = s.collector.pointer ∧ t.collector.lastTake = s.collector.lastTake ∧
      (∀ d p, d ≠ c → t.collector.tiles.get (tileIndex d p) = s.collector.tiles.get (tileIndex d p)) ∧
      (∀ p, t.collector.tiles.get (tileIndex c p) =
        if (s.collector.tiles.get (tileIndex c p)).marked = false then s.collector.tiles.get (tileIndex c p)
        else { marked := false, readings := none, sweepsSince := 0, warnClear := 0
               reported := ⟨false, false, false, false, false⟩ }) ∧
      ((s.chains.get c).pend.detail = false → t.responder = s.responder) ∧
      ∀ d, (s.chains.get c).pend.detail = true → s.responder.deferred = some d → d.state = .waiting →
        t.responder.deferred = some { d with state := .failed, readyAge := 0 }

/-- BRIGHTNESS_COMPLETE: an equal echo sets the echo-miss count to 0; a differing one increments it, posts the word again at the first
miss unless a brightness request waits, and raises CHAIN_INTEGRITY with 0xFFFF from the second on; every completion withdraws
CHAIN_TIMEOUT, and the chain is IDLE (R116, R125, R126, R137, R138). That the CHAIN_INTEGRITY raise stands before
the CHAIN_TIMEOUT withdraw is the model's reading (log entry 14). -/
def Obligations.BrightnessCompletes : Prop :=
  ∀ (c : Fin 4) (lead : Nat) (echo : BitVec 32) (s : State), s.running = true →
    (s.chains.get c).state = .brightness → lead + 32 ≤ (s.chains.get c).census.getD 0 + 32 + 64 →
    ∃ t, exec (.brightnessComplete c lead echo) s = .next t ∧
      KeepsButChain c [.requests] (s.passHalves (lead + 32 - (s.chains.get c).bitCount)) t ∧
      (echo.toNat = (s.chains.get c).sentValue % 65536 →
        t.chains.get c = { s.chains.get c with
          state := .idle, bitCount := 0, lead := none, wordsDone := 0, entered := [], finalArrived := false, stalled := false
          echoMiss := 0 } ∧
        t.requests = s.requests ++ madeNow t [(.chainTimeout, BitVec.ofNat 6 c.val, .withdraw)]) ∧
      (echo.toNat ≠ (s.chains.get c).sentValue % 65536 →
        t.chains.get c = { s.chains.get c with
          state := .idle, bitCount := 0, lead := none, wordsDone := 0, entered := [], finalArrived := false, stalled := false
          echoMiss := min ((s.chains.get c).echoMiss + 1) 255
          pend := { (s.chains.get c).pend with
            brightness := (s.chains.get c).pend.brightness || decide ((s.chains.get c).echoMiss = 0) }
          pendingValue :=
            if (s.chains.get c).echoMiss = 0 ∧ (s.chains.get c).pend.brightness = false then
              (s.chains.get c).sentValue
            else (s.chains.get c).pendingValue } ∧
        t.requests = s.requests ++ madeNow t
          ((if (s.chains.get c).echoMiss = 0 then []
              else [(.chainIntegrity, BitVec.ofNat 6 c.val, .raise (some 0xFFFF))]) ++
            [(.chainTimeout, BitVec.ofNat 6 c.val, .withdraw)]))

/-- STATUS_WORD_COMPLETE: the next word of the sweep completes at running bit time lead + 32 × (p + 1) for position p; a word of a position
not marked present is discarded; any other enters the FIFO as the newest, or waits in the register with the shift clock
stopped when the FIFO holds 8 (R127 to R129). The sweep has one lead bit: that of its first word stands for its later words too
(R116), whatever lead those carry (the model's choice, log entry 19). -/
def Obligations.StatusWordCompletes : Prop :=
  ∀ (c : Fin 4) (own lead : Nat) (word : BitVec 32) (s : State) (n : Nat), s.running = true →
    ((s.chains.get c).lead = some lead ∨ ((s.chains.get c).lead = none ∧ own = lead)) →
    (s.chains.get c).state = .sweep → (s.chains.get c).census = some n → (s.chains.get c).wordsDone < n →
    (s.chains.get c).stalled = false → lead + 32 * ((s.chains.get c).wordsDone + 1) ≤ 33 * n + 64 →
    ∃ t, exec (.statusWordComplete c own word) s = .next t ∧
      KeepsButChain c []
        (s.passHalves (lead + 32 * ((s.chains.get c).wordsDone + 1) - (s.chains.get c).bitCount)) t ∧
      ∀ p ch, p = (s.chains.get c).wordsDone → ch = { s.chains.get c with
          bitCount := lead + 32 * (p + 1), lead := some lead, wordsDone := p + 1, finalArrived := decide (p + 1 = n) } →
        (s.marked c p = false → t.chains.get c = ch) ∧
        (s.marked c p = true → (s.chains.get c).fifo.length < 8 →
          t.chains.get c = { ch with fifo := ch.fifo ++ [⟨p, word⟩], entered := ch.entered ++ [p] }) ∧
        (s.marked c p = true → 8 ≤ (s.chains.get c).fifo.length →
          t.chains.get c = { ch with register := some ⟨p, word⟩, stalled := true })

/-- SWEEP_COMPLETE: a sweep whose final bit has arrived and whose register is empty ends: the sweep-end report adds 1, up to 255, to the
sweeps since last word of each present tile of the chain whose word did not enter the FIFO, CHAIN_TIMEOUT is withdrawn, and the
chain is IDLE with its FIFO as it stood (R127 to R129, R137, R151). -/
def Obligations.SweepCompletes : Prop :=
  ∀ (c : Fin 4) (s : State), s.running = true → (s.chains.get c).state = .sweep →
    (s.chains.get c).finalArrived = true → (s.chains.get c).register = none →
    ∃ t, exec (.sweepComplete c) s = .next t ∧ KeepsButChain c [.collector, .requests] s t ∧
      t.chains.get c = { s.chains.get c with
        state := .idle, bitCount := 0, lead := none, wordsDone := 0, entered := [], finalArrived := false, stalled := false } ∧
      t.requests = s.requests ++ madeNow t [(.chainTimeout, BitVec.ofNat 6 c.val, .withdraw)] ∧
      t.collector.pointer = s.collector.pointer ∧ t.collector.lastTake = s.collector.lastTake ∧
      ∀ d p, t.collector.tiles.get (tileIndex d p) =
        if d = c ∧ (s.collector.tiles.get (tileIndex d p)).marked = true ∧ p.val ∉ (s.chains.get c).entered then
          { s.collector.tiles.get (tileIndex d p) with
            sweepsSince := min ((s.collector.tiles.get (tileIndex d p)).sweepsSince + 1) 255 }
        else s.collector.tiles.get (tileIndex d p)

/-- DETAIL_COMPLETE: the four words reach the WAITING record when the select echo is the word sent, and the detail fails back otherwise
(R130, R131, R196). TEST_COMPLETE: the count of the returned bits that differ from the pattern becomes the last mismatch count;
above the threshold it raises CHAIN_INTEGRITY with the count, at or below it withdraws (R132, R133, R138). Both withdraw
CHAIN_TIMEOUT and leave the chain IDLE (R137). The pattern is 254 bits of a seven-stage register fed back from stages 7
and 6 and started with seven ones (R132). That TEST's CHAIN_INTEGRITY request stands before its CHAIN_TIMEOUT withdraw is the model's
reading (log entry 14). -/
def Obligations.DetailAndTestComplete : Prop :=
  (∀ (c : Fin 4) (lead : Nat) (echo : BitVec 32) (words : DetailWords) (s : State), s.running = true →
    (s.chains.get c).state = .detail → lead + 160 ≤ (s.chains.get c).census.getD 0 + 160 + 64 →
    ∃ t, exec (.detailComplete c lead echo words) s = .next t ∧
      KeepsButChain c [.requests, .responder] (s.passHalves (lead + 160 - (s.chains.get c).bitCount)) t ∧
      t.chains.get c = { s.chains.get c with
        state := .idle, bitCount := 0, lead := none, wordsDone := 0, entered := [], finalArrived := false, stalled := false } ∧
      t.requests = s.requests ++ madeNow t [(.chainTimeout, BitVec.ofNat 6 c.val, .withdraw)] ∧
      (∀ d, s.responder.deferred = some d → d.state = .waiting → t.responder.deferred = some { d with
        readyAge := 0
        state := if echo.toNat = (s.chains.get c).sentPosition % 16 then .ready words else .failed }) ∧
      ((∀ d, s.responder.deferred = some d → d.state ≠ .waiting) → t.responder = s.responder)) ∧
  (testPattern.length = 254 ∧ (∀ k, k < 7 → testPattern[k]? = some true) ∧
    ∀ k a b, testPattern[k]? = some a → testPattern[k + 1]? = some b → k + 7 < 254 →
      testPattern[k + 7]? = some (a ^^ b)) ∧
  ∀ (c : Fin 4) (lead : Nat) (returned : BitVec 254) (s : State), s.running = true →
    (s.chains.get c).state = .test → lead + 254 ≤ (s.chains.get c).census.getD 0 + 254 + 64 →
    ∃ t m, exec (.testComplete c lead returned) s = .next t ∧
      KeepsButChain c [.requests] (s.passHalves (lead + 254 - (s.chains.get c).bitCount)) t ∧
      m ≤ 254 ∧ m = ((List.range 254).filter fun i => testPattern[i]? ≠ some (returned.getMsbD i)).length ∧
      t.chains.get c = { s.chains.get c with
        state := .idle, bitCount := 0, lead := none, wordsDone := 0, entered := [], finalArrived := false, stalled := false
        lastMismatch := some m } ∧
      t.requests = s.requests ++ madeNow t
        [(.chainIntegrity, BitVec.ofNat 6 c.val,
            if s.options.testThreshold < m then .raise (some (BitVec.ofNat 16 m)) else .withdraw),
          (.chainTimeout, BitVec.ofNat 6 c.val, .withdraw)]

/-- OPERATION_TIMEOUT: a BRIGHTNESS, SWEEP, DETAIL or TEST whose final bit has not arrived at expected bits + 64 is aborted: the sweep-end
report of a SWEEP is handed, a running or pending detail is failed back, CHAIN_TIMEOUT is raised with 1, 3, 2 or 4, a census is
posted, and the chain is IDLE with its other requests kept; a stalled chain and a sweep whose final bit has arrived do not time out
(R116, R134, R137), and that the command then changes nothing is the model's choice (log entry 1). -/
def Obligations.OperationTimesOut : Prop :=
  (∀ (c : Fin 4) (s : State) (expected code : Nat), s.running = true → (s.chains.get c).stalled = false →
    (s.chains.get c).finalArrived = false → ∀ n, n = (s.chains.get c).census.getD 0 →
    (((s.chains.get c).state = .brightness ∧ expected = n + 32 ∧ code = 1) ∨
      ((s.chains.get c).state = .detail ∧ expected = n + 160 ∧ code = 2) ∨
      ((s.chains.get c).state = .sweep ∧ expected = 33 * n ∧ code = 3) ∨
      ((s.chains.get c).state = .test ∧ expected = n + 254 ∧ code = 4)) →
    ∃ t, exec (.operationTimeout c) s = .next t ∧
      KeepsButChain c [.collector, .requests, .responder]
        (s.passHalves (expected + 64 - (s.chains.get c).bitCount)) t ∧
      t.chains.get c = { s.chains.get c with
        state := .idle, bitCount := 0, lead := none, wordsDone := 0, entered := [], finalArrived := false, stalled := false
        pend := { (s.chains.get c).pend with census := true, detail := false } } ∧
      t.requests = s.requests ++
        madeNow t [(.chainTimeout, BitVec.ofNat 6 c.val, .raise (some (BitVec.ofNat 16 code)))] ∧
      ((s.chains.get c).state ≠ .sweep → t.collector = s.collector) ∧
      ((s.chains.get c).state = .sweep → ∀ d p, t.collector.tiles.get (tileIndex d p) =
        if d = c ∧ (s.collector.tiles.get (tileIndex d p)).marked = true ∧ p.val ∉ (s.chains.get c).entered then
          { s.collector.tiles.get (tileIndex d p) with
            sweepsSince := min ((s.collector.tiles.get (tileIndex d p)).sweepsSince + 1) 255 }
        else s.collector.tiles.get (tileIndex d p)) ∧
      ∀ d, (s.chains.get c).state = .detail ∨ (s.chains.get c).pend.detail = true →
        s.responder.deferred = some d → d.state = .waiting →
        t.responder.deferred = some { d with state := .failed, readyAge := 0 }) ∧
  ∀ (c : Fin 4) (s : State), (s.chains.get c).stalled = true ∨ (s.chains.get c).finalArrived = true →
    exec (.operationTimeout c) s = .next s

/-- SWEEP_PERIOD_EXPIRY, TEST_PERIOD_EXPIRY and CENSUS_RETRY_EXPIRY: each posts its request, which merges with one that waits, and its
next expiry falls one interval later: the sweep period, the test period, or 10 s (R118, R121). -/
def Obligations.ChainIntervals : Prop :=
  ∀ (c : Fin 4) (s : State) (d : Nat) (ch : Chain), (s.chains.get c).state ≠ .off → ch = (s.arriveAt d).chains.get c →
    ((s.chains.get c).sweepDue = some d →
      ∃ t, exec (.sweepPeriodExpiry c) s = .next t ∧ KeepsButChain c [] (s.arriveAt d) t ∧
        t.chains.get c = { ch with
          pend := { ch.pend with sweep := true }, sweepDue := some (d + s.options.sweepSeconds * 1000000) }) ∧
    ((s.chains.get c).testDue = some d →
      ∃ t, exec (.testPeriodExpiry c) s = .next t ∧ KeepsButChain c [] (s.arriveAt d) t ∧
        t.chains.get c = { ch with
          pend := { ch.pend with test := true }, testDue := some (d + s.options.testSeconds * 1000000) }) ∧
    ((s.chains.get c).retryDue = some d →
      ∃ t, exec (.censusRetryExpiry c) s = .next t ∧ KeepsButChain c [] (s.arriveAt d) t ∧
        t.chains.get c = { ch with
          pend := { ch.pend with census := true }, retryDue := some (d + 10000000) })

/-- PWM_PERIOD_START: port p's period begins when the shared count next equals p × 1 024, with the on-time floor(D / 16) of the chain
joined to it, 0 when D is absent; the line is active when that is above 0. PWM_ON_TIME_END: on-time counts after the period's
start the line turns inactive (R8, R140),
rounded down to the whole microsecond (the model's choice, log entry 16). -/
def Obligations.PwmLinesFollowDuty : Prop :=
  (∀ (p c : Fin 4) (s : State), s.running = true → s.chainOnPort p = some c → s.pwmCount < 4096 →
    s.pwmCount % 8 = 0 →
    ∃ t n, exec (.pwmPeriodStart p) s = .next t ∧ n ≤ 512 ∧ Keeps [.ports] (s.passHalves n) t ∧
      t.pwmCount = p.val * 1024 ∧
      (∀ e, 0 < e → e < n → (s.pwmCount + 8 * e) % 4096 ≠ p.val * 1024) ∧
      (∀ q, q ≠ p → t.ports.get q = s.ports.get q) ∧
      t.ports.get p = { s.ports.get p with
        onTime := (s.chains.get c).duty.getD 0 / 16
        lineActive := decide (0 < (s.chains.get c).duty.getD 0 / 16)
        periodStart := some t.timeBase }) ∧
  ∀ (p : Fin 4) (s : State) (b : Nat), (s.ports.get p).periodStart = some b → (s.ports.get p).lineActive = true →
    ∃ t, exec (.pwmOnTimeEnd p) s = .next t ∧
      Keeps [.ports] (s.arriveAt (b + (s.ports.get p).onTime / 16)) t ∧
      (∀ q, q ≠ p → t.ports.get q = s.ports.get q) ∧
      t.ports.get p = { s.ports.get p with lineActive := false }

/-! ## What each command does: the status collector and the supply scanner -/

/-- COLLECTOR_TAKE: the collector, free 2 µs after its last take and once it has handed its requests on, takes the oldest word of the
first non-empty FIFO from its pointer on and moves the pointer past that chain; a word that waited in the register enters the
FIFO and restarts the shift clock; a word of an absent tile is discarded; any other gives the tile its five readings, sets its
sweeps since last word to 0, and raises or withdraws TILE_OPEN, TILE_SHORT, TILE_SUPPLY, THERMAL_CRIT and THERMAL_WARN in that
order as each cause begins or ends (R128, R143, R145 to R150). A chain whose FIFO holds a word and is passed over is nearer to
the pointer after the take, so no chain is passed over more than three times (R145). -/
def Obligations.CollectorTakes : Prop :=
  ∀ (s : State) (c : Fin 4) (w : StatusWord) (rest : List StatusWord), s.running = true → s.collectorWaits = false →
    (s.chains.get c).fifo = w :: rest →
    (∀ k : Fin 4, (k - s.collector.pointer).val < (c - s.collector.pointer).val → (s.chains.get k).fifo = []) →
    ∃ t u, exec .collectorTake s = .next t ∧
      u = s.arriveAt ((s.collector.lastTake.map (· + 2)).getD 0) ∧
      KeepsButChain c [.collector, .requests] u t ∧
      t.collector.pointer = c + 1 ∧ t.collector.lastTake = some u.timeBase ∧
      ((s.chains.get c).register = none → t.chains.get c = { u.chains.get c with fifo := rest }) ∧
      (∀ r, (s.chains.get c).register = some r → t.chains.get c = { u.chains.get c with
        fifo := rest ++ [r], register := none, stalled := false
        entered := (s.chains.get c).entered ++ [r.position] }) ∧
      (s.marked c w.position = false → t.collector.tiles = s.collector.tiles ∧ t.requests = s.requests) ∧
      (∀ p, p.val = w.position → (s.collector.tiles.get (tileIndex c p)).marked = true →
        ∀ old new r, old = s.collector.tiles.get (tileIndex c p) → new = t.collector.tiles.get (tileIndex c p) →
          r = readingsOf w.word →
          (∀ i, i ≠ tileIndex c p → t.collector.tiles.get i = s.collector.tiles.get i) ∧
          new.marked = true ∧ new.readings = some r ∧ new.sweepsSince = 0 ∧
          (new.reported.tileOpen = true ↔ 0 < r.openCount) ∧ (new.reported.tileShort = true ↔ 0 < r.shortCount) ∧
          (new.reported.tileSupply = true ↔ ¬(r.driverSupplyOk = true ∧ r.tileOk = true)) ∧
          (new.reported.thermalCrit = true ↔ s.options.crit + 40 ≤ r.temperature ∨
            (old.reported.thermalCrit = true ∧ s.options.warn + 40 ≤ r.temperature)) ∧
          new.warnClear = (if r.temperature + 5 < s.options.warn + 40 then min (old.warnClear + 1) 2 else 0) ∧
          (new.reported.thermalWarn = true ↔ s.options.warn + 40 ≤ r.temperature ∨
            (old.reported.thermalWarn = true ∧
              ¬(r.temperature + 5 < s.options.warn + 40 ∧ old.warnClear = 1))) ∧
          t.requests = s.requests ++ madeNow t
            ([(FaultKind.tileOpen, old.reported.tileOpen, new.reported.tileOpen, r.openCount),
              (FaultKind.tileShort, old.reported.tileShort, new.reported.tileShort, r.shortCount),
              (FaultKind.tileSupply, old.reported.tileSupply, new.reported.tileSupply,
                (if r.driverSupplyOk then 0 else 1) + (if r.tileOk then 0 else 2)),
              (FaultKind.thermalCrit, old.reported.thermalCrit, new.reported.thermalCrit, r.temperature),
              (FaultKind.thermalWarn, old.reported.thermalWarn, new.reported.thermalWarn, r.temperature)].filterMap
              fun e => match e with
                | (kind, false, true, detail) =>
                  some (kind, BitVec.ofNat 6 (tileIndex c p).val, .raise (some (BitVec.ofNat 16 detail)))
                | (kind, true, false, _) => some (kind, BitVec.ofNat 6 (tileIndex c p).val, .withdraw)
                | _ => none)) ∧
      ∀ d, d ≠ c → (s.chains.get d).fifo ≠ [] →
        (d - t.collector.pointer).val < (d - s.collector.pointer).val

/-- SUPPLY_SCAN: at the expiry the monitored ports, those joined to a used chain with a nominal above 0, are queued in ascending order and
the first conversion runs for 20 µs; the next scan falls 250 ms later (R2, R159). CONVERSION_COMPLETE: a sample below
floor(n × k / 32) counts a low run up to 2, which reaching 2 raises SUPPLY_DROOP with the sample unless reported; one at or above
that plus floor(n / 32) counts a good run up to 8, which reaching 8 withdraws it if reported; each ends the other's run, and one
between them ends both (R160, R161). -/
def Obligations.SupplyWatched : Prop :=
  (∀ (s : State) (d : Nat), s.scanner.scanDue = some d →
    ∃ t, exec .supplyScan s = .next t ∧ Keeps [.scanner] (s.arriveAt d) t ∧
      t.scanner.records = s.scanner.records ∧ t.scanner.scanDue = some (d + 250000) ∧
      t.scanner.conversionEnd = d + 20 ∧ t.scanner.queue.Pairwise (· < ·) ∧
      ∀ p, p ∈ t.scanner.queue ↔ 0 < s.options.nominals.get p ∧
        ∃ c, s.used c = true ∧ s.options.crossbar.get c = p) ∧
  ∀ (s : State) (p : Fin 4) (rest : List (Fin 4)) (x : BitVec 10) (old : SupplyRecord) (low high : Nat),
    s.scanner.queue = p :: rest → old = s.scanner.records.get p →
    low = s.options.nominals.get p * s.options.droopLevel / 32 → high = low + s.options.nominals.get p / 32 →
    ∃ t new, exec (.conversionComplete x) s = .next t ∧
      Keeps [.scanner, .requests] (s.arriveAt s.scanner.conversionEnd) t ∧
      t.scanner = { s.scanner with
        records := s.scanner.records.set p new, queue := rest, conversionEnd := s.scanner.conversionEnd + 20 } ∧
      (x.toNat < low →
        new = { lowRun := min (old.lowRun + 1) 2, goodRun := 0
                droopReported := old.droopReported || decide (old.lowRun = 1) } ∧
        t.requests = s.requests ++ (if old.lowRun = 1 ∧ old.droopReported = false then
          madeNow t [(.supplyDroop, s.portSource p, .raise (some (x.setWidth 16)))] else [])) ∧
      (low ≤ x.toNat → x.toNat < high →
        new = { old with lowRun := 0, goodRun := 0 } ∧ t.requests = s.requests) ∧
      (high ≤ x.toNat →
        new = { lowRun := 0, goodRun := min (old.goodRun + 1) 8
                droopReported := old.droopReported && decide (old.goodRun ≠ 7) } ∧
        t.requests = s.requests ++ (if old.goodRun = 7 ∧ old.droopReported = true then
          madeNow t [(.supplyDroop, s.portSource p, .withdraw)] else []))

/-! ## What each command does: the fault table -/

/-- FAULT_RAISE of the request that has waited longest: it is taken when the table is free and occupies it for 1 µs (R166). A CLEARED record
is revived in its place with its count one higher, at most 255, and a RAISED notice is offered (R168); an ACTIVE one takes the
detail and nothing is offered (R169); with no record and fewer than 24, one is created at the end and a notice offered (R167);
on a full table the CLEARED record with the largest cleared age, the oldest-created of these, gives its place, or else the
oldest-created of the lowest severity if that is below the new one's, and otherwise the raise is not recorded and the overflow
flag is set (R173, R174). The FAULT output is asserted exactly while a MAJOR or CRITICAL record is ACTIVE (R181). -/
def Obligations.RaiseTaken : Prop :=
  ∀ (kind : FaultKind) (source : Source) (detail : Option Detail) (s u : State) (made : Nat) (rest : List Request)
    (fresh : FaultRecord) (raised : FaultRecord → LineControl), s.startUp.phase ≠ .resetHeld → s.faults.Sound →
    s.requests = ⟨made, kind, source, .raise detail⟩ :: rest → u = s.arriveAt s.faults.freeAt →
    fresh = ⟨kind, source, .active, 1, detail, 0⟩ →
    (∀ r, raised r = s.line.offer
      { urgency := if faultSeverity kind = .critical then .alarm else .notice, sender := s.ownAddress
        kind := .faultNotice, payload := noticePayload .raised r }) →
    ∃ t, exec (.faultRaise kind source detail) s = .next t ∧ Keeps [.faults, .requests, .line] u t ∧
      t.requests = rest ∧ t.faults.freeAt = u.timeBase + 1 ∧ t.faults.agingDue = s.faults.agingDue ∧
      (t.faults.output = true ↔ ∃ r ∈ t.faults.records, r.state = .active ∧ faultSeverity r.kind ≠ .minor) ∧
      (∀ before r after, s.faults.records = before ++ r :: after → r.kind = kind → r.source = source →
        t.faults.overflow = s.faults.overflow ∧
        (r.state = .active → t.line = s.line ∧ t.faults.records = before ++ { r with detail := detail } :: after) ∧
        (r.state = .cleared →
          ∃ q, q = { r with state := .active, count := min (r.count + 1) 255, detail := detail, clearedAge := 0 } ∧
            t.faults.records = before ++ q :: after ∧ t.line = raised q)) ∧
      ((∀ r ∈ s.faults.records, ¬(r.kind = kind ∧ r.source = source)) →
        (s.faults.records.length < 24 → t.faults.overflow = s.faults.overflow ∧
          t.faults.records = s.faults.records ++ [fresh] ∧ t.line = raised fresh) ∧
        (s.faults.records.length = 24 →
          (∀ before r after, s.faults.records = before ++ r :: after → r.state = .cleared →
            (∀ q ∈ before, q.state = .cleared → q.clearedAge < r.clearedAge) →
            (∀ q ∈ after, q.state = .cleared → q.clearedAge ≤ r.clearedAge) →
            t.faults.overflow = s.faults.overflow ∧ t.faults.records = before ++ after ++ [fresh] ∧
            t.line = raised fresh) ∧
          ((∀ r ∈ s.faults.records, r.state = .active) →
            (∀ before r after, s.faults.records = before ++ r :: after →
              (faultSeverity r.kind).code < (faultSeverity kind).code →
              (∀ q ∈ before, (faultSeverity r.kind).code < (faultSeverity q.kind).code) →
              (∀ q ∈ after, (faultSeverity r.kind).code ≤ (faultSeverity q.kind).code) →
              t.faults.overflow = s.faults.overflow ∧ t.faults.records = before ++ after ++ [fresh] ∧
              t.line = raised fresh) ∧
            ((∀ r ∈ s.faults.records, (faultSeverity kind).code ≤ (faultSeverity r.kind).code) →
              t.faults.overflow = true ∧ t.faults.records = s.faults.records ∧ t.line = s.line))))

/-- FAULT_WITHDRAW of the request that has waited longest: an ACTIVE record becomes CLEARED with cleared age 0 in its place and a CLEARED
notice is offered; a CLEARED or absent one is left, and nothing is offered; the overflow flag is not touched (R166, R170, R178).
No block makes a withdraw of CONFIG_DEFAULTED (R165): that the command then changes nothing and takes no time is the model's choice
(log entry 6). -/
def Obligations.WithdrawTaken : Prop :=
  (∀ (kind : FaultKind) (source : Source) (s u : State) (made : Nat) (rest : List Request), kind ≠ .configDefaulted →
    s.startUp.phase ≠ .resetHeld → s.faults.Sound →
    s.requests = ⟨made, kind, source, .withdraw⟩ :: rest → u = s.arriveAt s.faults.freeAt →
    ∃ t, exec (.faultWithdraw kind source) s = .next t ∧ Keeps [.faults, .requests, .line] u t ∧
      t.requests = rest ∧ t.faults.freeAt = u.timeBase + 1 ∧ t.faults.agingDue = s.faults.agingDue ∧
      t.faults.overflow = s.faults.overflow ∧
      (t.faults.output = true ↔ ∃ r ∈ t.faults.records, r.state = .active ∧ faultSeverity r.kind ≠ .minor) ∧
      (∀ before r after, s.faults.records = before ++ r :: after → r.kind = kind → r.source = source →
        r.state = .active →
        ∃ q, q = { r with state := .cleared, clearedAge := 0 } ∧ t.faults.records = before ++ q :: after ∧
          t.line = s.line.offer { urgency := .notice, sender := s.ownAddress, kind := .faultNotice
                                  payload := noticePayload .cleared q }) ∧
      ((∀ r ∈ s.faults.records, r.kind = kind → r.source = source → r.state = .cleared) →
        t.faults.records = s.faults.records ∧ t.line = s.line)) ∧
  ∀ (source : Source) (s : State), exec (.faultWithdraw .configDefaulted source) s = .next s

/-! ## What each command does: the query responder -/

/-- The items answered at once: each QUERY for this station offers one REPLY of urgency ORDER, with the asker's address, the tag, item and
argument as received, the status and the data of its item in R214's layout, and changes nothing else (R184, R185, R187 to R192) but
that the frame's samples are read and it is counted good, which LINE's answer shows. BAD_ITEM answers an item or argument out
of range; TILE is UNAVAILABLE for an absent tile; VIEW is EMPTY or OWN without a record. A QUERY for another station, or heard by a
listen-only station, is counted good and goes no further (R42, R43, R54). A QUERY_BAD_ITEM that names a good item is the command of its
item's row, and a row's command with an argument out of range is QUERY_BAD_ITEM's answer (the model's choice, log entry 19). -/
def Obligations.QueriesAnswered : Prop :=
  ∀ (asker : Addr) (target : BitVec 16) (item arg tag : Octet) (s u : State),
    s.Hears (Frame.octets ⟨.order, asker, .query, queryOctets ⟨asker, target, item, arg, tag⟩⟩) u → s.NotHeldBack asker →
    (s.line.listenOnly = true ∨ target ≠ s.ownAddress.setWidth 16 → ∀ row : Instr,
      (row = .queryBadItem asker target item arg tag ∨ (item = 1 ∧ row = .faults asker target arg tag) ∨
        (item = 2 ∧ row = .tile asker target arg tag) ∨ (item = 3 ∧ row = .tileDetail asker target arg tag) ∨
        (item = 4 ∧ row = .view asker target arg tag) ∨ (item = 5 ∧ row = .levels asker target arg tag) ∨
        (item = 6 ∧ row = .chain asker target arg tag) ∨ (item = 7 ∧ row = .line asker target arg tag)) →
      exec row s = .next { u with line := s.line.afterGood }) ∧
    (s.line.listenOnly = false → target = s.ownAddress.setWidth 16 →
      ∀ answered : Nat → List Octet → State,
      (∀ status data, answered status data = { u with
        line := s.line.afterGood.offer
          { urgency := .order, sender := s.ownAddress, kind := .reply
            payload := [BitVec.ofNat 8 (asker.toNat / 256), BitVec.ofNat 8 asker.toNat, tag, item, arg,
              BitVec.ofNat 8 status] ++ data } }) →
      ((item = 0 ∨ 7 < item.toNat ∨ (item = 1 ∧ 8 ≤ arg.toNat) ∨
          ((item = 2 ∨ item = 3) ∧ 64 ≤ arg.toNat) ∨ (item = 4 ∧ 32 ≤ arg.toNat) ∨ (item = 6 ∧ 4 ≤ arg.toNat)) →
        exec (.queryBadItem asker target item arg tag) s = .next (answered 3 [])) ∧
      ((item = 1 → 8 ≤ arg.toNat → exec (.faults asker target arg tag) s = .next (answered 3 [])) ∧
        (item = 2 → 64 ≤ arg.toNat → exec (.tile asker target arg tag) s = .next (answered 3 [])) ∧
        (item = 3 → 64 ≤ arg.toNat → exec (.tileDetail asker target arg tag) s = .next (answered 3 [])) ∧
        (item = 4 → 32 ≤ arg.toNat → exec (.view asker target arg tag) s = .next (answered 3 [])) ∧
        (item = 6 → 4 ≤ arg.toNat → exec (.chain asker target arg tag) s = .next (answered 3 []))) ∧
      (exec (.queryBadItem asker target 1 arg tag) s = exec (.faults asker target arg tag) s ∧
        exec (.queryBadItem asker target 2 arg tag) s = exec (.tile asker target arg tag) s ∧
        exec (.queryBadItem asker target 3 arg tag) s = exec (.tileDetail asker target arg tag) s ∧
        exec (.queryBadItem asker target 4 arg tag) s = exec (.view asker target arg tag) s ∧
        exec (.queryBadItem asker target 5 arg tag) s = exec (.levels asker target arg tag) s ∧
        exec (.queryBadItem asker target 6 arg tag) s = exec (.chain asker target arg tag) s ∧
        exec (.queryBadItem asker target 7 arg tag) s = exec (.line asker target arg tag) s) ∧
      (∀ (n : Nat) (entry : Nat → Nat → List Octet), item = 1 → arg.toNat < 8 →
        n = (s.faults.records.filter fun r => r.state = .active).length →
        (∀ e header, entry e header = match s.faults.records[3 * arg.toNat + e]? with
          | none => [0, BitVec.ofNat 8 (64 * header), 0, 0, 0, 0]
          | some r => [BitVec.ofNat 8 (faultCode r.kind + if r.state = .cleared then 128 else 0),
              BitVec.ofNat 8 (64 * header + r.source.toNat), BitVec.ofNat 8 r.count, BitVec.ofNat 8 r.clearedAge] ++
              twoOctets ((r.detail.map BitVec.toNat).getD 0)) →
        exec (.faults asker target arg tag) s = .next (answered 0 (entry 0 (n / 8 % 4) ++ entry 1 (n / 2 % 4) ++
          entry 2 (2 * (n % 2) + if s.faults.overflow then 1 else 0)))) ∧
      (∀ (h : arg.toNat < 64) (tile : TileRecord), item = 2 → tile = s.collector.tiles.get ⟨arg.toNat, h⟩ →
        (tile.marked = true → exec (.tile asker target arg tag) s = .next (answered 0
          ((match tile.readings with
            | some r => [BitVec.ofNat 8 (16 * r.openCount + r.shortCount), BitVec.ofNat 8 r.temperature,
                BitVec.ofNat 8 ((if r.driverSupplyOk then 1 else 0) + (if r.tileOk then 2 else 0) + 128 +
                  16 * tile.warnClear)]
            | none => [0, 0, BitVec.ofNat 8 (16 * tile.warnClear)]) ++
          [BitVec.ofNat 8 tile.sweepsSince,
            BitVec.ofNat 8 ((if tile.reported.tileOpen then 1 else 0) + (if tile.reported.tileShort then 2 else 0) +
              (if tile.reported.tileSupply then 4 else 0) + (if tile.reported.thermalWarn then 8 else 0) +
              (if tile.reported.thermalCrit then 16 else 0))]))) ∧
        (tile.marked = false → exec (.tile asker target arg tag) s = .next (answered 4 []))) ∧
      (∀ h : arg.toNat < 32, item = 4 →
        (s.neighbours.slots.get ⟨arg.toNat, h⟩ = none → exec (.view asker target arg tag) s =
          .next (answered 0 [if s.neighbours.ownSlot = some ⟨arg.toNat, h⟩ then 1 else 0])) ∧
        ∀ n, s.neighbours.slots.get ⟨arg.toNat, h⟩ = some n → exec (.view asker target arg tag) s = .next (answered 0
          ([2] ++ twoOctets n.sender.toNat ++ [BitVec.ofNat 8 (n.mode.code + if n.freshness = .stale then 128 else 0)] ++
            twoOctets n.yOut ++ twoOctets (n.ambient.getD 0x3FF) ++ twoOctets ((n.cap.map Prod.fst).getD 0x3FF) ++
            twoOctets ((n.cap.map Prod.snd).getD 0) ++
            [BitVec.ofNat 8 n.activeCount,
              BitVec.ofNat 8 (severityCode n.severity + if n.overflow then 128 else 0), BitVec.ofNat 8 n.seq,
              BitVec.ofNat 8 n.missed] ++ twoOctets n.age))) ∧
      (∀ packed, item = 5 → packed = List.foldl (fun m (k : Option Nat) => 1024 * m + k.getD 0x3FF % 1024) 0
          [s.settling.stage.aOwn, s.settling.stage.aPool, s.settling.stage.yCeil, s.settling.stage.capLevel,
            s.settling.stage.upstream, s.settling.stage.downstream, s.settling.stage.yTarget,
            some s.settling.stage.yOut] →
        exec (.levels asker target arg tag) s = .next (answered 0
          ((List.range 10).map (fun i => BitVec.ofNat 8 (packed / 256 ^ (9 - i))) ++
            [BitVec.ofNat 8 (s.settling.stage.mode.code + 4 *
                (if s.settling.stage.derate = 0 then 0 else if s.settling.stage.derate = 16 then 1 else 2)),
              BitVec.ofNat 8 ((s.neighbours.ownSlot.map Fin.val).getD 0xFF)] ++
            twoOctets ((s.cap.record.map fun r => r.source.toNat).getD 0) ++
            twoOctets ((s.cap.record.map CapRecord.remaining).getD 0)))) ∧
      (∀ (h : arg.toNat < 4) (ch : Chain), item = 6 → ch = s.chains.get ⟨arg.toNat, h⟩ →
        exec (.chain asker target arg tag) s = .next (answered 0
          ([BitVec.ofNat 8 ch.state.code,
              (if s.used ⟨arg.toNat, h⟩ then BitVec.ofNat 8 (s.options.crossbar.get ⟨arg.toNat, h⟩).val else 0xFF),
              BitVec.ofNat 8 (ch.census.getD 0xFF), BitVec.ofNat 8 (ch.lastMismatch.getD 0xFF),
              BitVec.ofNat 8 ch.echoMiss,
              BitVec.ofNat 8 ((if ch.pend.census then 1 else 0) + (if ch.pend.brightness then 2 else 0) +
                (if ch.pend.detail then 4 else 0) + (if ch.pend.sweep then 8 else 0) + (if ch.pend.test then 16 else 0) +
                (if ch.duty.isSome then 128 else 0))] ++ twoOctets (ch.duty.getD 0)))) ∧
      (item = 7 → exec (.line asker target arg tag) s = .next (answered 0
        (twoOctets s.line.counters.sent ++ twoOctets s.line.counters.lost ++ twoOctets s.line.counters.aborts ++
          twoOctets s.line.counters.drops ++ twoOctets (min (s.line.counters.good + 1) 65535) ++
          twoOctets s.line.counters.bad ++
          [BitVec.ofNat 8 (startCauseCode s.startUp.startCause + if s.line.listenOnly then 128 else 0)]))))

/-- TILE_DETAIL (R193 to R196): without a deferred record a first ask for an absent tile or on a chain OFF or DOWN is UNAVAILABLE, and any
other creates a WAITING record, posts a detail request at the tile's position and is DEFERRED; a re-ask is DEFERRED while
WAITING, collects and frees a READY record with OK and its words, and frees a FAILED one with UNAVAILABLE; any other asker or
tile is BUSY and changes nothing. -/
def Obligations.TileDetailProtocol : Prop :=
  ∀ (asker : Addr) (arg tag : Octet) (s u : State) (reply : Nat → List Octet → LineControl) (i : Fin 64)
    (c : Fin 4),
    s.Hears (Frame.octets ⟨.order, asker, .query, queryOctets ⟨asker, s.ownAddress.setWidth 16, 3, arg, tag⟩⟩) u →
    s.line.listenOnly = false → asker ≠ s.ownAddress → i.val = arg.toNat → c.val = i.val / 16 →
    (∀ status data, reply status data = LineControl.offer
      { urgency := .order, sender := s.ownAddress, kind := .reply
        payload := [BitVec.ofNat 8 (asker.toNat / 256), BitVec.ofNat 8 asker.toNat, tag, 3, arg,
          BitVec.ofNat 8 status] ++ data } s.line.afterGood) →
    ∃ t, exec (.tileDetail asker (s.ownAddress.setWidth 16) arg tag) s = .next t ∧
      KeepsButChain c [.line, .responder] u t ∧
      t.responder.agingDue = s.responder.agingDue ∧
      (s.responder.deferred = none →
        ((s.collector.tiles.get i).marked = false ∨ (s.chains.get c).state = .off ∨ (s.chains.get c).state = .down →
          t.line = reply 4 [] ∧ t.responder.deferred = none ∧ t.chains = u.chains) ∧
        ((s.collector.tiles.get i).marked = true → (s.chains.get c).state ≠ .off → (s.chains.get c).state ≠ .down →
          (s.chains.get c).pend.detail = false →
          t.line = reply 1 [] ∧ t.responder.deferred = some ⟨asker, arg.toNat, .waiting, 0⟩ ∧
          t.chains.get c = { u.chains.get c with
            pend := { (s.chains.get c).pend with detail := true }, pendingPosition := arg.toNat % 16 })) ∧
      ∀ d, s.responder.deferred = some d → t.chains = u.chains ∧
        (d.asker = asker → d.tile = arg.toNat →
          (d.state = .waiting → t.line = reply 1 [] ∧ t.responder.deferred = some d) ∧
          (∀ w, d.state = .ready w → t.responder.deferred = none ∧ t.line = reply 0
            (fourOctets w.stringMap ++ fourOctets w.temperatures ++ fourOctets w.driverSupply ++
              fourOctets w.errorCounters)) ∧
          (d.state = .failed → t.line = reply 4 [] ∧ t.responder.deferred = none)) ∧
        (¬(d.asker = asker ∧ d.tile = arg.toNat) → t.line = reply 2 [] ∧ t.responder.deferred = some d)
end

