-- ==== Sys2Proof/Laws/Tables.lean ====
section
/-! SUPPORT. What a table holds after each of its operations. -/

namespace Sys2Proof

variable {α β : Type} {n : Nat}

theorem Table.get_eq (t : Table α n) (i : Fin n) : t.get i = t.cells[i.val]'(by rw [t.size]; exact i.isLt) := rfl

@[ext] theorem Table.ext {t u : Table α n} (h : ∀ i, t.get i = u.get i) : t = u := by
  obtain ⟨ts, ht⟩ := t
  obtain ⟨us, hu⟩ := u
  have : ts = us := by
    apply List.ext_getElem (by rw [ht, hu])
    intro k hk hk'
    exact h ⟨k, by rw [← ht]; exact hk⟩
  subst this
  rfl

@[simp] theorem Table.get_replicate (x : α) (i : Fin n) : (Table.replicate n x).get i = x := by
  simp [Table.get_eq, Table.replicate]

@[simp] theorem Table.get_set_self (t : Table α n) (i : Fin n) (x : α) : (t.set i x).get i = x := by
  simp [Table.get_eq, Table.set]

theorem Table.get_set_other (t : Table α n) {i j : Fin n} (x : α) (h : j ≠ i) : (t.set i x).get j = t.get j := by
  have : i.val ≠ j.val := fun e => h (Fin.ext e.symm)
  simp [Table.get_eq, Table.set, this]

theorem Table.get_set (t : Table α n) (i j : Fin n) (x : α) : (t.set i x).get j = if j = i then x else t.get j := by
  split
  · next h => rw [h, Table.get_set_self]
  · next h => rw [Table.get_set_other _ _ h]

@[simp] theorem Table.get_map (t : Table α n) (f : α → β) (i : Fin n) : (t.map f).get i = f (t.get i) := by
  simp [Table.get_eq, Table.map]

@[simp] theorem Table.get_tabulate (f : Fin n → α) (i : Fin n) : (Table.tabulate n f).get i = f i := by
  simp [Table.get_eq, Table.tabulate]

@[simp] theorem Table.get_mapWithIndex (t : Table α n) (f : Fin n → α → β) (i : Fin n) :
    (t.mapWithIndex f).get i = f i (t.get i) := by
  simp [Table.mapWithIndex]

/-- Setting a place to what it holds changes nothing. -/
@[simp] theorem Table.set_get (t : Table α n) (i : Fin n) : t.set i (t.get i) = t := by
  ext j
  rw [Table.get_set]
  split
  · next h => rw [h]
  · rfl

/-- The second of two settings of one place stands. -/
@[simp] theorem Table.set_set (t : Table α n) (i : Fin n) (x y : α) : (t.set i x).set i y = t.set i y := by
  ext j
  simp only [Table.get_set]
  split <;> rfl

theorem clamp_le (lo hi v : Nat) : clamp lo hi v ≤ hi := Nat.min_le_right _ _

theorem le_clamp {lo hi : Nat} (v : Nat) (h : lo ≤ hi) : lo ≤ clamp lo hi v :=
  Nat.le_min.mpr ⟨Nat.le_max_right _ _, h⟩

/-- A value already in the range is kept. -/
theorem clamp_of_mem {lo hi v : Nat} (h : lo ≤ v) (h' : v ≤ hi) : clamp lo hi v = v := by
  simp [clamp, Nat.max_eq_left h, Nat.min_eq_left h']

theorem clampInt_le (hi : Nat) (v : Int) : clampInt hi v ≤ hi := Nat.min_le_right _ _

theorem satSucc_le (top n : Nat) : satSucc top n ≤ top := Nat.min_le_right _ _

theorem satSucc_of_lt {top n : Nat} (h : n < top) : satSucc top n = n + 1 := Nat.min_eq_left h

end Sys2Proof
end

