-- ==== Sys2Proof/Laws/State.lean ====
section
/-! SUPPORT. Each field of the state after each update of a part of it, and what is read from the fields that an update leaves. -/

namespace Sys2Proof.Machine

open Sys2Proof

variable (s : State)

/-! ### setSensor -/

@[simp] theorem State.setSensor_timeBase (i : Fin 2) (x : SensorChannel) :
    (s.setSensor i x).timeBase = s.timeBase := rfl
@[simp] theorem State.setSensor_pwmCount (i : Fin 2) (x : SensorChannel) :
    (s.setSensor i x).pwmCount = s.pwmCount := rfl
@[simp] theorem State.setSensor_startUp (i : Fin 2) (x : SensorChannel) : (s.setSensor i x).startUp = s.startUp := rfl
@[simp] theorem State.setSensor_sensors (i : Fin 2) (x : SensorChannel) :
    (s.setSensor i x).sensors = s.sensors.set i x := rfl
@[simp] theorem State.setSensor_line (i : Fin 2) (x : SensorChannel) : (s.setSensor i x).line = s.line := rfl
@[simp] theorem State.setSensor_wire (i : Fin 2) (x : SensorChannel) : (s.setSensor i x).wire = s.wire := rfl
@[simp] theorem State.setSensor_neighbours (i : Fin 2) (x : SensorChannel) :
    (s.setSensor i x).neighbours = s.neighbours := rfl
@[simp] theorem State.setSensor_settling (i : Fin 2) (x : SensorChannel) :
    (s.setSensor i x).settling = s.settling := rfl
@[simp] theorem State.setSensor_cap (i : Fin 2) (x : SensorChannel) : (s.setSensor i x).cap = s.cap := rfl
@[simp] theorem State.setSensor_chains (i : Fin 2) (x : SensorChannel) : (s.setSensor i x).chains = s.chains := rfl
@[simp] theorem State.setSensor_ports (i : Fin 2) (x : SensorChannel) : (s.setSensor i x).ports = s.ports := rfl
@[simp] theorem State.setSensor_collector (i : Fin 2) (x : SensorChannel) :
    (s.setSensor i x).collector = s.collector := rfl
@[simp] theorem State.setSensor_scanner (i : Fin 2) (x : SensorChannel) : (s.setSensor i x).scanner = s.scanner := rfl
@[simp] theorem State.setSensor_faults (i : Fin 2) (x : SensorChannel) : (s.setSensor i x).faults = s.faults := rfl
@[simp] theorem State.setSensor_requests (i : Fin 2) (x : SensorChannel) :
    (s.setSensor i x).requests = s.requests := rfl
@[simp] theorem State.setSensor_responder (i : Fin 2) (x : SensorChannel) :
    (s.setSensor i x).responder = s.responder := rfl
@[simp] theorem State.setSensor_pending (i : Fin 2) (x : SensorChannel) : (s.setSensor i x).pending = s.pending := rfl
@[simp] theorem State.setSensor_options (i : Fin 2) (x : SensorChannel) : (s.setSensor i x).options = s.options := rfl
@[simp] theorem State.setSensor_ownAddress (i : Fin 2) (x : SensorChannel) :
    (s.setSensor i x).ownAddress = s.ownAddress := rfl
@[simp] theorem State.setSensor_running (i : Fin 2) (x : SensorChannel) : (s.setSensor i x).running = s.running := rfl
@[simp] theorem State.setSensor_used (i : Fin 2) (x : SensorChannel) (e : Fin 4) :
    (s.setSensor i x).used e = s.used e := rfl
@[simp] theorem State.setSensor_chainOnPort (i : Fin 2) (x : SensorChannel) (q : Fin 4) :
    (s.setSensor i x).chainOnPort q = s.chainOnPort q := rfl
@[simp] theorem State.setSensor_marked (i : Fin 2) (x : SensorChannel) (e : Fin 4) (m : Nat) :
    (s.setSensor i x).marked e m = s.marked e m := rfl

/-! ### setLine -/

@[simp] theorem State.setLine_timeBase (x : LineControl) : (s.setLine x).timeBase = s.timeBase := rfl
@[simp] theorem State.setLine_pwmCount (x : LineControl) : (s.setLine x).pwmCount = s.pwmCount := rfl
@[simp] theorem State.setLine_startUp (x : LineControl) : (s.setLine x).startUp = s.startUp := rfl
@[simp] theorem State.setLine_sensors (x : LineControl) : (s.setLine x).sensors = s.sensors := rfl
@[simp] theorem State.setLine_line (x : LineControl) : (s.setLine x).line = x := rfl
@[simp] theorem State.setLine_wire (x : LineControl) : (s.setLine x).wire = s.wire := rfl
@[simp] theorem State.setLine_neighbours (x : LineControl) : (s.setLine x).neighbours = s.neighbours := rfl
@[simp] theorem State.setLine_settling (x : LineControl) : (s.setLine x).settling = s.settling := rfl
@[simp] theorem State.setLine_cap (x : LineControl) : (s.setLine x).cap = s.cap := rfl
@[simp] theorem State.setLine_chains (x : LineControl) : (s.setLine x).chains = s.chains := rfl
@[simp] theorem State.setLine_ports (x : LineControl) : (s.setLine x).ports = s.ports := rfl
@[simp] theorem State.setLine_collector (x : LineControl) : (s.setLine x).collector = s.collector := rfl
@[simp] theorem State.setLine_scanner (x : LineControl) : (s.setLine x).scanner = s.scanner := rfl
@[simp] theorem State.setLine_faults (x : LineControl) : (s.setLine x).faults = s.faults := rfl
@[simp] theorem State.setLine_requests (x : LineControl) : (s.setLine x).requests = s.requests := rfl
@[simp] theorem State.setLine_responder (x : LineControl) : (s.setLine x).responder = s.responder := rfl
@[simp] theorem State.setLine_pending (x : LineControl) : (s.setLine x).pending = s.pending := rfl
@[simp] theorem State.setLine_options (x : LineControl) : (s.setLine x).options = s.options := rfl
@[simp] theorem State.setLine_ownAddress (x : LineControl) : (s.setLine x).ownAddress = s.ownAddress := rfl
@[simp] theorem State.setLine_running (x : LineControl) : (s.setLine x).running = s.running := rfl
@[simp] theorem State.setLine_used (x : LineControl) (e : Fin 4) : (s.setLine x).used e = s.used e := rfl
@[simp] theorem State.setLine_chainOnPort (x : LineControl) (q : Fin 4) :
    (s.setLine x).chainOnPort q = s.chainOnPort q := rfl
@[simp] theorem State.setLine_marked (x : LineControl) (e : Fin 4) (m : Nat) :
    (s.setLine x).marked e m = s.marked e m := rfl

/-! ### setWire -/

@[simp] theorem State.setWire_timeBase (x : LineSamples) : (s.setWire x).timeBase = s.timeBase := rfl
@[simp] theorem State.setWire_pwmCount (x : LineSamples) : (s.setWire x).pwmCount = s.pwmCount := rfl
@[simp] theorem State.setWire_startUp (x : LineSamples) : (s.setWire x).startUp = s.startUp := rfl
@[simp] theorem State.setWire_sensors (x : LineSamples) : (s.setWire x).sensors = s.sensors := rfl
@[simp] theorem State.setWire_line (x : LineSamples) : (s.setWire x).line = s.line := rfl
@[simp] theorem State.setWire_wire (x : LineSamples) : (s.setWire x).wire = x := rfl
@[simp] theorem State.setWire_neighbours (x : LineSamples) : (s.setWire x).neighbours = s.neighbours := rfl
@[simp] theorem State.setWire_settling (x : LineSamples) : (s.setWire x).settling = s.settling := rfl
@[simp] theorem State.setWire_cap (x : LineSamples) : (s.setWire x).cap = s.cap := rfl
@[simp] theorem State.setWire_chains (x : LineSamples) : (s.setWire x).chains = s.chains := rfl
@[simp] theorem State.setWire_ports (x : LineSamples) : (s.setWire x).ports = s.ports := rfl
@[simp] theorem State.setWire_collector (x : LineSamples) : (s.setWire x).collector = s.collector := rfl
@[simp] theorem State.setWire_scanner (x : LineSamples) : (s.setWire x).scanner = s.scanner := rfl
@[simp] theorem State.setWire_faults (x : LineSamples) : (s.setWire x).faults = s.faults := rfl
@[simp] theorem State.setWire_requests (x : LineSamples) : (s.setWire x).requests = s.requests := rfl
@[simp] theorem State.setWire_responder (x : LineSamples) : (s.setWire x).responder = s.responder := rfl
@[simp] theorem State.setWire_pending (x : LineSamples) : (s.setWire x).pending = s.pending := rfl
@[simp] theorem State.setWire_options (x : LineSamples) : (s.setWire x).options = s.options := rfl
@[simp] theorem State.setWire_ownAddress (x : LineSamples) : (s.setWire x).ownAddress = s.ownAddress := rfl
@[simp] theorem State.setWire_running (x : LineSamples) : (s.setWire x).running = s.running := rfl
@[simp] theorem State.setWire_used (x : LineSamples) (e : Fin 4) : (s.setWire x).used e = s.used e := rfl
@[simp] theorem State.setWire_chainOnPort (x : LineSamples) (q : Fin 4) :
    (s.setWire x).chainOnPort q = s.chainOnPort q := rfl
@[simp] theorem State.setWire_marked (x : LineSamples) (e : Fin 4) (m : Nat) :
    (s.setWire x).marked e m = s.marked e m := rfl

/-! ### setChain -/

@[simp] theorem State.setChain_timeBase (c : Fin 4) (x : Chain) : (s.setChain c x).timeBase = s.timeBase := rfl
@[simp] theorem State.setChain_pwmCount (c : Fin 4) (x : Chain) : (s.setChain c x).pwmCount = s.pwmCount := rfl
@[simp] theorem State.setChain_startUp (c : Fin 4) (x : Chain) : (s.setChain c x).startUp = s.startUp := rfl
@[simp] theorem State.setChain_sensors (c : Fin 4) (x : Chain) : (s.setChain c x).sensors = s.sensors := rfl
@[simp] theorem State.setChain_line (c : Fin 4) (x : Chain) : (s.setChain c x).line = s.line := rfl
@[simp] theorem State.setChain_wire (c : Fin 4) (x : Chain) : (s.setChain c x).wire = s.wire := rfl
@[simp] theorem State.setChain_neighbours (c : Fin 4) (x : Chain) : (s.setChain c x).neighbours = s.neighbours := rfl
@[simp] theorem State.setChain_settling (c : Fin 4) (x : Chain) : (s.setChain c x).settling = s.settling := rfl
@[simp] theorem State.setChain_cap (c : Fin 4) (x : Chain) : (s.setChain c x).cap = s.cap := rfl
@[simp] theorem State.setChain_chains (c : Fin 4) (x : Chain) : (s.setChain c x).chains = s.chains.set c x := rfl
@[simp] theorem State.setChain_ports (c : Fin 4) (x : Chain) : (s.setChain c x).ports = s.ports := rfl
@[simp] theorem State.setChain_collector (c : Fin 4) (x : Chain) : (s.setChain c x).collector = s.collector := rfl
@[simp] theorem State.setChain_scanner (c : Fin 4) (x : Chain) : (s.setChain c x).scanner = s.scanner := rfl
@[simp] theorem State.setChain_faults (c : Fin 4) (x : Chain) : (s.setChain c x).faults = s.faults := rfl
@[simp] theorem State.setChain_requests (c : Fin 4) (x : Chain) : (s.setChain c x).requests = s.requests := rfl
@[simp] theorem State.setChain_responder (c : Fin 4) (x : Chain) : (s.setChain c x).responder = s.responder := rfl
@[simp] theorem State.setChain_pending (c : Fin 4) (x : Chain) : (s.setChain c x).pending = s.pending := rfl
@[simp] theorem State.setChain_options (c : Fin 4) (x : Chain) : (s.setChain c x).options = s.options := rfl
@[simp] theorem State.setChain_ownAddress (c : Fin 4) (x : Chain) : (s.setChain c x).ownAddress = s.ownAddress := rfl
@[simp] theorem State.setChain_running (c : Fin 4) (x : Chain) : (s.setChain c x).running = s.running := rfl
@[simp] theorem State.setChain_used (c : Fin 4) (x : Chain) (e : Fin 4) : (s.setChain c x).used e = s.used e := rfl
@[simp] theorem State.setChain_chainOnPort (c : Fin 4) (x : Chain) (q : Fin 4) :
    (s.setChain c x).chainOnPort q = s.chainOnPort q := rfl
@[simp] theorem State.setChain_marked (c : Fin 4) (x : Chain) (e : Fin 4) (m : Nat) :
    (s.setChain c x).marked e m = s.marked e m := rfl

/-! ### setPort -/

@[simp] theorem State.setPort_timeBase (p : Fin 4) (x : Port) : (s.setPort p x).timeBase = s.timeBase := rfl
@[simp] theorem State.setPort_pwmCount (p : Fin 4) (x : Port) : (s.setPort p x).pwmCount = s.pwmCount := rfl
@[simp] theorem State.setPort_startUp (p : Fin 4) (x : Port) : (s.setPort p x).startUp = s.startUp := rfl
@[simp] theorem State.setPort_sensors (p : Fin 4) (x : Port) : (s.setPort p x).sensors = s.sensors := rfl
@[simp] theorem State.setPort_line (p : Fin 4) (x : Port) : (s.setPort p x).line = s.line := rfl
@[simp] theorem State.setPort_wire (p : Fin 4) (x : Port) : (s.setPort p x).wire = s.wire := rfl
@[simp] theorem State.setPort_neighbours (p : Fin 4) (x : Port) : (s.setPort p x).neighbours = s.neighbours := rfl
@[simp] theorem State.setPort_settling (p : Fin 4) (x : Port) : (s.setPort p x).settling = s.settling := rfl
@[simp] theorem State.setPort_cap (p : Fin 4) (x : Port) : (s.setPort p x).cap = s.cap := rfl
@[simp] theorem State.setPort_chains (p : Fin 4) (x : Port) : (s.setPort p x).chains = s.chains := rfl
@[simp] theorem State.setPort_ports (p : Fin 4) (x : Port) : (s.setPort p x).ports = s.ports.set p x := rfl
@[simp] theorem State.setPort_collector (p : Fin 4) (x : Port) : (s.setPort p x).collector = s.collector := rfl
@[simp] theorem State.setPort_scanner (p : Fin 4) (x : Port) : (s.setPort p x).scanner = s.scanner := rfl
@[simp] theorem State.setPort_faults (p : Fin 4) (x : Port) : (s.setPort p x).faults = s.faults := rfl
@[simp] theorem State.setPort_requests (p : Fin 4) (x : Port) : (s.setPort p x).requests = s.requests := rfl
@[simp] theorem State.setPort_responder (p : Fin 4) (x : Port) : (s.setPort p x).responder = s.responder := rfl
@[simp] theorem State.setPort_pending (p : Fin 4) (x : Port) : (s.setPort p x).pending = s.pending := rfl
@[simp] theorem State.setPort_options (p : Fin 4) (x : Port) : (s.setPort p x).options = s.options := rfl
@[simp] theorem State.setPort_ownAddress (p : Fin 4) (x : Port) : (s.setPort p x).ownAddress = s.ownAddress := rfl
@[simp] theorem State.setPort_running (p : Fin 4) (x : Port) : (s.setPort p x).running = s.running := rfl
@[simp] theorem State.setPort_used (p : Fin 4) (x : Port) (e : Fin 4) : (s.setPort p x).used e = s.used e := rfl
@[simp] theorem State.setPort_chainOnPort (p : Fin 4) (x : Port) (q : Fin 4) :
    (s.setPort p x).chainOnPort q = s.chainOnPort q := rfl
@[simp] theorem State.setPort_marked (p : Fin 4) (x : Port) (e : Fin 4) (m : Nat) :
    (s.setPort p x).marked e m = s.marked e m := rfl

/-! ### setFaults -/

@[simp] theorem State.setFaults_timeBase (x : FaultTable) : (s.setFaults x).timeBase = s.timeBase := rfl
@[simp] theorem State.setFaults_pwmCount (x : FaultTable) : (s.setFaults x).pwmCount = s.pwmCount := rfl
@[simp] theorem State.setFaults_startUp (x : FaultTable) : (s.setFaults x).startUp = s.startUp := rfl
@[simp] theorem State.setFaults_sensors (x : FaultTable) : (s.setFaults x).sensors = s.sensors := rfl
@[simp] theorem State.setFaults_line (x : FaultTable) : (s.setFaults x).line = s.line := rfl
@[simp] theorem State.setFaults_wire (x : FaultTable) : (s.setFaults x).wire = s.wire := rfl
@[simp] theorem State.setFaults_neighbours (x : FaultTable) : (s.setFaults x).neighbours = s.neighbours := rfl
@[simp] theorem State.setFaults_settling (x : FaultTable) : (s.setFaults x).settling = s.settling := rfl
@[simp] theorem State.setFaults_cap (x : FaultTable) : (s.setFaults x).cap = s.cap := rfl
@[simp] theorem State.setFaults_chains (x : FaultTable) : (s.setFaults x).chains = s.chains := rfl
@[simp] theorem State.setFaults_ports (x : FaultTable) : (s.setFaults x).ports = s.ports := rfl
@[simp] theorem State.setFaults_collector (x : FaultTable) : (s.setFaults x).collector = s.collector := rfl
@[simp] theorem State.setFaults_scanner (x : FaultTable) : (s.setFaults x).scanner = s.scanner := rfl
@[simp] theorem State.setFaults_faults (x : FaultTable) : (s.setFaults x).faults = x := rfl
@[simp] theorem State.setFaults_requests (x : FaultTable) : (s.setFaults x).requests = s.requests := rfl
@[simp] theorem State.setFaults_responder (x : FaultTable) : (s.setFaults x).responder = s.responder := rfl
@[simp] theorem State.setFaults_pending (x : FaultTable) : (s.setFaults x).pending = s.pending := rfl
@[simp] theorem State.setFaults_options (x : FaultTable) : (s.setFaults x).options = s.options := rfl
@[simp] theorem State.setFaults_ownAddress (x : FaultTable) : (s.setFaults x).ownAddress = s.ownAddress := rfl
@[simp] theorem State.setFaults_running (x : FaultTable) : (s.setFaults x).running = s.running := rfl
@[simp] theorem State.setFaults_used (x : FaultTable) (e : Fin 4) : (s.setFaults x).used e = s.used e := rfl
@[simp] theorem State.setFaults_chainOnPort (x : FaultTable) (q : Fin 4) :
    (s.setFaults x).chainOnPort q = s.chainOnPort q := rfl
@[simp] theorem State.setFaults_marked (x : FaultTable) (e : Fin 4) (m : Nat) :
    (s.setFaults x).marked e m = s.marked e m := rfl

/-! ### setDeferred -/

@[simp] theorem State.setDeferred_timeBase (x : Option Deferred) : (s.setDeferred x).timeBase = s.timeBase := rfl
@[simp] theorem State.setDeferred_pwmCount (x : Option Deferred) : (s.setDeferred x).pwmCount = s.pwmCount := rfl
@[simp] theorem State.setDeferred_startUp (x : Option Deferred) : (s.setDeferred x).startUp = s.startUp := rfl
@[simp] theorem State.setDeferred_sensors (x : Option Deferred) : (s.setDeferred x).sensors = s.sensors := rfl
@[simp] theorem State.setDeferred_line (x : Option Deferred) : (s.setDeferred x).line = s.line := rfl
@[simp] theorem State.setDeferred_wire (x : Option Deferred) : (s.setDeferred x).wire = s.wire := rfl
@[simp] theorem State.setDeferred_neighbours (x : Option Deferred) :
    (s.setDeferred x).neighbours = s.neighbours := rfl
@[simp] theorem State.setDeferred_settling (x : Option Deferred) : (s.setDeferred x).settling = s.settling := rfl
@[simp] theorem State.setDeferred_cap (x : Option Deferred) : (s.setDeferred x).cap = s.cap := rfl
@[simp] theorem State.setDeferred_chains (x : Option Deferred) : (s.setDeferred x).chains = s.chains := rfl
@[simp] theorem State.setDeferred_ports (x : Option Deferred) : (s.setDeferred x).ports = s.ports := rfl
@[simp] theorem State.setDeferred_collector (x : Option Deferred) : (s.setDeferred x).collector = s.collector := rfl
@[simp] theorem State.setDeferred_scanner (x : Option Deferred) : (s.setDeferred x).scanner = s.scanner := rfl
@[simp] theorem State.setDeferred_faults (x : Option Deferred) : (s.setDeferred x).faults = s.faults := rfl
@[simp] theorem State.setDeferred_requests (x : Option Deferred) : (s.setDeferred x).requests = s.requests := rfl
@[simp] theorem State.setDeferred_responder (x : Option Deferred) :
    (s.setDeferred x).responder = { s.responder with deferred := x } := rfl
@[simp] theorem State.setDeferred_pending (x : Option Deferred) : (s.setDeferred x).pending = s.pending := rfl
@[simp] theorem State.setDeferred_options (x : Option Deferred) : (s.setDeferred x).options = s.options := rfl
@[simp] theorem State.setDeferred_ownAddress (x : Option Deferred) :
    (s.setDeferred x).ownAddress = s.ownAddress := rfl
@[simp] theorem State.setDeferred_running (x : Option Deferred) : (s.setDeferred x).running = s.running := rfl
@[simp] theorem State.setDeferred_used (x : Option Deferred) (e : Fin 4) : (s.setDeferred x).used e = s.used e := rfl
@[simp] theorem State.setDeferred_chainOnPort (x : Option Deferred) (q : Fin 4) :
    (s.setDeferred x).chainOnPort q = s.chainOnPort q := rfl
@[simp] theorem State.setDeferred_marked (x : Option Deferred) (e : Fin 4) (m : Nat) :
    (s.setDeferred x).marked e m = s.marked e m := rfl

/-! ### setTile -/

@[simp] theorem State.setTile_timeBase (i : Fin 64) (x : TileRecord) : (s.setTile i x).timeBase = s.timeBase := rfl
@[simp] theorem State.setTile_pwmCount (i : Fin 64) (x : TileRecord) : (s.setTile i x).pwmCount = s.pwmCount := rfl
@[simp] theorem State.setTile_startUp (i : Fin 64) (x : TileRecord) : (s.setTile i x).startUp = s.startUp := rfl
@[simp] theorem State.setTile_sensors (i : Fin 64) (x : TileRecord) : (s.setTile i x).sensors = s.sensors := rfl
@[simp] theorem State.setTile_line (i : Fin 64) (x : TileRecord) : (s.setTile i x).line = s.line := rfl
@[simp] theorem State.setTile_wire (i : Fin 64) (x : TileRecord) : (s.setTile i x).wire = s.wire := rfl
@[simp] theorem State.setTile_neighbours (i : Fin 64) (x : TileRecord) :
    (s.setTile i x).neighbours = s.neighbours := rfl
@[simp] theorem State.setTile_settling (i : Fin 64) (x : TileRecord) : (s.setTile i x).settling = s.settling := rfl
@[simp] theorem State.setTile_cap (i : Fin 64) (x : TileRecord) : (s.setTile i x).cap = s.cap := rfl
@[simp] theorem State.setTile_chains (i : Fin 64) (x : TileRecord) : (s.setTile i x).chains = s.chains := rfl
@[simp] theorem State.setTile_ports (i : Fin 64) (x : TileRecord) : (s.setTile i x).ports = s.ports := rfl
@[simp] theorem State.setTile_collector (i : Fin 64) (x : TileRecord) :
    (s.setTile i x).collector = { s.collector with tiles := s.collector.tiles.set i x } := rfl
@[simp] theorem State.setTile_scanner (i : Fin 64) (x : TileRecord) : (s.setTile i x).scanner = s.scanner := rfl
@[simp] theorem State.setTile_faults (i : Fin 64) (x : TileRecord) : (s.setTile i x).faults = s.faults := rfl
@[simp] theorem State.setTile_requests (i : Fin 64) (x : TileRecord) : (s.setTile i x).requests = s.requests := rfl
@[simp] theorem State.setTile_responder (i : Fin 64) (x : TileRecord) : (s.setTile i x).responder = s.responder := rfl
@[simp] theorem State.setTile_pending (i : Fin 64) (x : TileRecord) : (s.setTile i x).pending = s.pending := rfl
@[simp] theorem State.setTile_options (i : Fin 64) (x : TileRecord) : (s.setTile i x).options = s.options := rfl
@[simp] theorem State.setTile_ownAddress (i : Fin 64) (x : TileRecord) :
    (s.setTile i x).ownAddress = s.ownAddress := rfl
@[simp] theorem State.setTile_running (i : Fin 64) (x : TileRecord) : (s.setTile i x).running = s.running := rfl
@[simp] theorem State.setTile_used (i : Fin 64) (x : TileRecord) (e : Fin 4) :
    (s.setTile i x).used e = s.used e := rfl
@[simp] theorem State.setTile_chainOnPort (i : Fin 64) (x : TileRecord) (q : Fin 4) :
    (s.setTile i x).chainOnPort q = s.chainOnPort q := rfl

/-! ### setSlot -/

@[simp] theorem State.setSlot_timeBase (i : Fin 32) (x : Option Neighbour) :
    (s.setSlot i x).timeBase = s.timeBase := rfl
@[simp] theorem State.setSlot_pwmCount (i : Fin 32) (x : Option Neighbour) :
    (s.setSlot i x).pwmCount = s.pwmCount := rfl
@[simp] theorem State.setSlot_startUp (i : Fin 32) (x : Option Neighbour) : (s.setSlot i x).startUp = s.startUp := rfl
@[simp] theorem State.setSlot_sensors (i : Fin 32) (x : Option Neighbour) : (s.setSlot i x).sensors = s.sensors := rfl
@[simp] theorem State.setSlot_line (i : Fin 32) (x : Option Neighbour) : (s.setSlot i x).line = s.line := rfl
@[simp] theorem State.setSlot_wire (i : Fin 32) (x : Option Neighbour) : (s.setSlot i x).wire = s.wire := rfl
@[simp] theorem State.setSlot_neighbours (i : Fin 32) (x : Option Neighbour) :
    (s.setSlot i x).neighbours = { s.neighbours with slots := s.neighbours.slots.set i x } := rfl
@[simp] theorem State.setSlot_settling (i : Fin 32) (x : Option Neighbour) :
    (s.setSlot i x).settling = s.settling := rfl
@[simp] theorem State.setSlot_cap (i : Fin 32) (x : Option Neighbour) : (s.setSlot i x).cap = s.cap := rfl
@[simp] theorem State.setSlot_chains (i : Fin 32) (x : Option Neighbour) : (s.setSlot i x).chains = s.chains := rfl
@[simp] theorem State.setSlot_ports (i : Fin 32) (x : Option Neighbour) : (s.setSlot i x).ports = s.ports := rfl
@[simp] theorem State.setSlot_collector (i : Fin 32) (x : Option Neighbour) :
    (s.setSlot i x).collector = s.collector := rfl
@[simp] theorem State.setSlot_scanner (i : Fin 32) (x : Option Neighbour) : (s.setSlot i x).scanner = s.scanner := rfl
@[simp] theorem State.setSlot_faults (i : Fin 32) (x : Option Neighbour) : (s.setSlot i x).faults = s.faults := rfl
@[simp] theorem State.setSlot_requests (i : Fin 32) (x : Option Neighbour) :
    (s.setSlot i x).requests = s.requests := rfl
@[simp] theorem State.setSlot_responder (i : Fin 32) (x : Option Neighbour) :
    (s.setSlot i x).responder = s.responder := rfl
@[simp] theorem State.setSlot_pending (i : Fin 32) (x : Option Neighbour) : (s.setSlot i x).pending = s.pending := rfl
@[simp] theorem State.setSlot_options (i : Fin 32) (x : Option Neighbour) : (s.setSlot i x).options = s.options := rfl
@[simp] theorem State.setSlot_ownAddress (i : Fin 32) (x : Option Neighbour) :
    (s.setSlot i x).ownAddress = s.ownAddress := rfl
@[simp] theorem State.setSlot_running (i : Fin 32) (x : Option Neighbour) : (s.setSlot i x).running = s.running := rfl
@[simp] theorem State.setSlot_used (i : Fin 32) (x : Option Neighbour) (e : Fin 4) :
    (s.setSlot i x).used e = s.used e := rfl
@[simp] theorem State.setSlot_chainOnPort (i : Fin 32) (x : Option Neighbour) (q : Fin 4) :
    (s.setSlot i x).chainOnPort q = s.chainOnPort q := rfl
@[simp] theorem State.setSlot_marked (i : Fin 32) (x : Option Neighbour) (e : Fin 4) (m : Nat) :
    (s.setSlot i x).marked e m = s.marked e m := rfl

/-! ### request -/

@[simp] theorem State.request_timeBase (k : FaultKind) (w : Source) (a : FaultAction) :
    (s.request k w a).timeBase = s.timeBase := rfl
@[simp] theorem State.request_pwmCount (k : FaultKind) (w : Source) (a : FaultAction) :
    (s.request k w a).pwmCount = s.pwmCount := rfl
@[simp] theorem State.request_startUp (k : FaultKind) (w : Source) (a : FaultAction) :
    (s.request k w a).startUp = s.startUp := rfl
@[simp] theorem State.request_sensors (k : FaultKind) (w : Source) (a : FaultAction) :
    (s.request k w a).sensors = s.sensors := rfl
@[simp] theorem State.request_line (k : FaultKind) (w : Source) (a : FaultAction) :
    (s.request k w a).line = s.line := rfl
@[simp] theorem State.request_wire (k : FaultKind) (w : Source) (a : FaultAction) :
    (s.request k w a).wire = s.wire := rfl
@[simp] theorem State.request_neighbours (k : FaultKind) (w : Source) (a : FaultAction) :
    (s.request k w a).neighbours = s.neighbours := rfl
@[simp] theorem State.request_settling (k : FaultKind) (w : Source) (a : FaultAction) :
    (s.request k w a).settling = s.settling := rfl
@[simp] theorem State.request_cap (k : FaultKind) (w : Source) (a : FaultAction) :
    (s.request k w a).cap = s.cap := rfl
@[simp] theorem State.request_chains (k : FaultKind) (w : Source) (a : FaultAction) :
    (s.request k w a).chains = s.chains := rfl
@[simp] theorem State.request_ports (k : FaultKind) (w : Source) (a : FaultAction) :
    (s.request k w a).ports = s.ports := rfl
@[simp] theorem State.request_collector (k : FaultKind) (w : Source) (a : FaultAction) :
    (s.request k w a).collector = s.collector := rfl
@[simp] theorem State.request_scanner (k : FaultKind) (w : Source) (a : FaultAction) :
    (s.request k w a).scanner = s.scanner := rfl
@[simp] theorem State.request_faults (k : FaultKind) (w : Source) (a : FaultAction) :
    (s.request k w a).faults = s.faults := rfl
@[simp] theorem State.request_requests (k : FaultKind) (w : Source) (a : FaultAction) :
    (s.request k w a).requests = s.requests ++ [{ madeAt := s.timeBase, kind := k, source := w, action := a }] := rfl
@[simp] theorem State.request_responder (k : FaultKind) (w : Source) (a : FaultAction) :
    (s.request k w a).responder = s.responder := rfl
@[simp] theorem State.request_pending (k : FaultKind) (w : Source) (a : FaultAction) :
    (s.request k w a).pending = s.pending := rfl
@[simp] theorem State.request_options (k : FaultKind) (w : Source) (a : FaultAction) :
    (s.request k w a).options = s.options := rfl
@[simp] theorem State.request_ownAddress (k : FaultKind) (w : Source) (a : FaultAction) :
    (s.request k w a).ownAddress = s.ownAddress := rfl
@[simp] theorem State.request_running (k : FaultKind) (w : Source) (a : FaultAction) :
    (s.request k w a).running = s.running := rfl
@[simp] theorem State.request_used (k : FaultKind) (w : Source) (a : FaultAction) (e : Fin 4) :
    (s.request k w a).used e = s.used e := rfl
@[simp] theorem State.request_chainOnPort (k : FaultKind) (w : Source) (a : FaultAction) (q : Fin 4) :
    (s.request k w a).chainOnPort q = s.chainOnPort q := rfl
@[simp] theorem State.request_marked (k : FaultKind) (w : Source) (a : FaultAction) (e : Fin 4) (m : Nat) :
    (s.request k w a).marked e m = s.marked e m := rfl

/-! ### offerFrame -/

@[simp] theorem State.offerFrame_timeBase (f : Frame) : (s.offerFrame f).timeBase = s.timeBase := rfl
@[simp] theorem State.offerFrame_pwmCount (f : Frame) : (s.offerFrame f).pwmCount = s.pwmCount := rfl
@[simp] theorem State.offerFrame_startUp (f : Frame) : (s.offerFrame f).startUp = s.startUp := rfl
@[simp] theorem State.offerFrame_sensors (f : Frame) : (s.offerFrame f).sensors = s.sensors := rfl
@[simp] theorem State.offerFrame_line (f : Frame) : (s.offerFrame f).line = s.line.offer f := rfl
@[simp] theorem State.offerFrame_wire (f : Frame) : (s.offerFrame f).wire = s.wire := rfl
@[simp] theorem State.offerFrame_neighbours (f : Frame) : (s.offerFrame f).neighbours = s.neighbours := rfl
@[simp] theorem State.offerFrame_settling (f : Frame) : (s.offerFrame f).settling = s.settling := rfl
@[simp] theorem State.offerFrame_cap (f : Frame) : (s.offerFrame f).cap = s.cap := rfl
@[simp] theorem State.offerFrame_chains (f : Frame) : (s.offerFrame f).chains = s.chains := rfl
@[simp] theorem State.offerFrame_ports (f : Frame) : (s.offerFrame f).ports = s.ports := rfl
@[simp] theorem State.offerFrame_collector (f : Frame) : (s.offerFrame f).collector = s.collector := rfl
@[simp] theorem State.offerFrame_scanner (f : Frame) : (s.offerFrame f).scanner = s.scanner := rfl
@[simp] theorem State.offerFrame_faults (f : Frame) : (s.offerFrame f).faults = s.faults := rfl
@[simp] theorem State.offerFrame_requests (f : Frame) : (s.offerFrame f).requests = s.requests := rfl
@[simp] theorem State.offerFrame_responder (f : Frame) : (s.offerFrame f).responder = s.responder := rfl
@[simp] theorem State.offerFrame_pending (f : Frame) : (s.offerFrame f).pending = s.pending := rfl
@[simp] theorem State.offerFrame_options (f : Frame) : (s.offerFrame f).options = s.options := rfl
@[simp] theorem State.offerFrame_ownAddress (f : Frame) : (s.offerFrame f).ownAddress = s.ownAddress := rfl
@[simp] theorem State.offerFrame_running (f : Frame) : (s.offerFrame f).running = s.running := rfl
@[simp] theorem State.offerFrame_used (f : Frame) (e : Fin 4) : (s.offerFrame f).used e = s.used e := rfl
@[simp] theorem State.offerFrame_chainOnPort (f : Frame) (q : Fin 4) :
    (s.offerFrame f).chainOnPort q = s.chainOnPort q := rfl
@[simp] theorem State.offerFrame_marked (f : Frame) (e : Fin 4) (m : Nat) :
    (s.offerFrame f).marked e m = s.marked e m := rfl

end Sys2Proof.Machine
end

