-- ==== Sys2Proof/Laws/Queue.lean ====
section
/-! SUPPORT. What offering a frame to the transmit queue does (R51 to R54). -/

namespace Sys2Proof.Machine

open Sys2Proof

/-- The line controller with a new queue and a new drops count. -/
def LineControl.requeue (queue : List Frame) (drops : Nat) (l : LineControl) : LineControl :=
  { l with queue := queue, counters := { l.counters with drops := drops } }

/-- Everything that an offer can do: it is discarded at a listen-only station, it replaces the waiting beacon, it joins the
queue, it displaces the newest frame of the least urgent class, or it is dropped. -/
theorem LineControl.offer_cases (f : Frame) (l : LineControl) :
    (l.listenOnly = true ∧ l.offer f = l) ∨
    (l.listenOnly = false ∧
      ((f.kind = .beacon ∧ (∃ q ∈ l.queue, q.kind = .beacon) ∧
          l.offer f = l.requeue (replaceBeacon f l.queue) l.counters.drops) ∨
        (¬(f.kind = .beacon ∧ ∃ q ∈ l.queue, q.kind = .beacon) ∧
          ((l.queue.length < Config.queuePlaces ∧ l.offer f = l.requeue (insertFrame f l.queue) l.counters.drops) ∨
            (Config.queuePlaces ≤ l.queue.length ∧
              (((∃ q ∈ l.queue, f.urgency.code < q.urgency.code) ∧
                  l.offer f =
                    l.requeue (insertFrame f (dropLeastUrgent l.queue)) (counted l.counters.drops)) ∨
                ((∀ q ∈ l.queue, q.urgency.code ≤ f.urgency.code) ∧
                  l.offer f = l.requeue l.queue (counted l.counters.drops)))))))) := by
  unfold LineControl.offer LineControl.requeue
  by_cases hl : l.listenOnly = true
  · exact .inl ⟨hl, by rw [if_pos hl]⟩
  refine .inr ⟨by simpa using hl, ?_⟩
  rw [if_neg hl]
  by_cases hb : (decide (f.kind = .beacon) && l.queue.any fun q => decide (q.kind = .beacon)) = true
  · rw [if_pos hb]
    refine .inl ?_
    simp only [Bool.and_eq_true, decide_eq_true_eq, List.any_eq_true] at hb
    exact ⟨hb.1, hb.2, rfl⟩
  rw [if_neg hb]
  refine .inr ⟨?_, ?_⟩
  · simpa only [Bool.and_eq_true, decide_eq_true_eq, List.any_eq_true] using hb
  by_cases hq : l.queue.length < Config.queuePlaces
  · exact .inl ⟨hq, by rw [if_pos hq]⟩
  refine .inr ⟨Nat.le_of_not_lt hq, ?_⟩
  rw [if_neg hq]
  by_cases ha : (l.queue.any fun q => decide (f.urgency.code < q.urgency.code)) = true
  · refine .inl ⟨?_, by rw [if_pos ha]⟩
    simpa only [List.any_eq_true, decide_eq_true_eq] using ha
  · refine .inr ⟨?_, by rw [if_neg ha]⟩
    intro q hm
    by_contra hn
    exact ha (List.any_eq_true.mpr ⟨q, hm, decide_eq_true (Nat.lt_of_not_le hn)⟩)

/-- An offer changes the waiting frames and the drops counter, and nothing else of the line controller. -/
theorem LineControl.offer_eq (f : Frame) (l : LineControl) :
    l.offer f = l.requeue (l.offer f).queue (l.offer f).counters.drops := by
  rcases LineControl.offer_cases f l with ⟨-, h⟩ | ⟨-, ⟨-, -, h⟩ | ⟨-, ⟨-, h⟩ | ⟨-, ⟨-, h⟩ | ⟨-, h⟩⟩⟩⟩ <;>
    rw [h] <;> rfl

@[simp] theorem LineControl.offer_flight (f : Frame) (l : LineControl) : (l.offer f).flight = l.flight := by
  rw [LineControl.offer_eq]; rfl
@[simp] theorem LineControl.offer_sending (f : Frame) (l : LineControl) : (l.offer f).sending = l.sending := by
  rw [LineControl.offer_eq]; rfl
@[simp] theorem LineControl.offer_drivesUntil (f : Frame) (l : LineControl) :
    (l.offer f).drivesUntil = l.drivesUntil := by
  rw [LineControl.offer_eq]; rfl
@[simp] theorem LineControl.offer_suspended (f : Frame) (l : LineControl) :
    (l.offer f).suspended = l.suspended := by
  rw [LineControl.offer_eq]; rfl
@[simp] theorem LineControl.offer_cleanRun (f : Frame) (l : LineControl) : (l.offer f).cleanRun = l.cleanRun := by
  rw [LineControl.offer_eq]; rfl
@[simp] theorem LineControl.offer_clashEnd (f : Frame) (l : LineControl) : (l.offer f).clashEnd = l.clashEnd := by
  rw [LineControl.offer_eq]; rfl
@[simp] theorem LineControl.offer_seq (f : Frame) (l : LineControl) : (l.offer f).seq = l.seq := by
  rw [LineControl.offer_eq]; rfl
@[simp] theorem LineControl.offer_listenOnly (f : Frame) (l : LineControl) :
    (l.offer f).listenOnly = l.listenOnly := by
  rw [LineControl.offer_eq]; rfl
@[simp] theorem LineControl.offer_beaconDue (f : Frame) (l : LineControl) :
    (l.offer f).beaconDue = l.beaconDue := by
  rw [LineControl.offer_eq]; rfl

/-- A replaced beacon leaves the length of the waiting order as it was (R52). -/
@[simp] theorem replaceBeacon_length (f : Frame) (q : List Frame) : (replaceBeacon f q).length = q.length := by
  induction q with
  | nil => rfl
  | cons x rest ih =>
    unfold replaceBeacon
    split <;> simp [ih]

/-- A frame that joins the waiting order adds one to its length (R51). -/
@[simp] theorem insertFrame_length (f : Frame) (q : List Frame) : (insertFrame f q).length = q.length + 1 := by
  have := congrArg List.length (List.takeWhile_append_dropWhile (p := staysAhead f) (l := q))
  simp only [List.length_append] at this
  simp only [insertFrame, List.length_append, List.length_cons]
  omega

theorem mem_insertFrame {f g : Frame} {q : List Frame} : g ∈ insertFrame f q ↔ g = f ∨ g ∈ q := by
  have h : g ∈ q ↔ g ∈ q.takeWhile (staysAhead f) ∨ g ∈ q.dropWhile (staysAhead f) := by
    rw [← List.mem_append, List.takeWhile_append_dropWhile]
  simp only [insertFrame, List.mem_append, List.mem_cons, h]
  tauto

end Sys2Proof.Machine
end

