-- ==== Sys2Proof/Laws/Samples.lean ====
section
/-! SUPPORT. What sampling the line does to the idle count, the stuck count and the receive assembler (R33, R39, R41), and that two
spells of a line are one. -/

namespace Sys2Proof.Machine

open Sys2Proof

variable (bitTime now : Nat) (w : LineSamples)

@[simp] theorem LineSamples.readFrom_nil : w.readFrom bitTime now [] = w := rfl
@[simp] theorem LineSamples.readFrom_cons (l : Level) (ls : List Level) :
    w.readFrom bitTime now (l :: ls) = (w.sample bitTime now l).readFrom bitTime (now + bitTime) ls := rfl

/-- Two lists of samples are read one after the other. -/
theorem LineSamples.readFrom_append (a b : List Level) :
    w.readFrom bitTime now (a ++ b) = (w.readFrom bitTime now a).readFrom bitTime (now + a.length * bitTime) b := by
  induction a generalizing w now with
  | nil => simp
  | cons l rest ih =>
    have e : now + (rest.length + 1) * bitTime = now + bitTime + rest.length * bitTime := by rw [Nat.add_mul]; omega
    simp [ih, e]

@[simp] theorem LineSamples.sample_sampledAt (l : Level) : (w.sample bitTime now l).sampledAt = now := by cases l <;> rfl
@[simp] theorem LineSamples.sample_quiet (l : Level) : (w.sample bitTime now l).quiet = w.quiet := by cases l <;> rfl
@[simp] theorem LineSamples.readFrom_quiet (ls : List Level) : (w.readFrom bitTime now ls).quiet = w.quiet := by
  induction ls generalizing w now with
  | nil => rfl
  | cons l rest ih => simp [ih]

theorem LineSamples.sample_recessive :
    w.sample bitTime now .recessive =
      { w with
        idleCount := min (w.idleCount + 1) Config.idleBits
        stuckCount := 0
        sampledAt := now
        stuck := false
        assembler := w.assembler.take .recessive } := rfl

theorem LineSamples.sample_dominant :
    w.sample bitTime now .dominant =
      { w with
        idleCount := 0
        stuckCount := min (w.stuckCount + 1) Config.stuckBits
        sampledAt := now
        edge := if w.stuckCount = 0 then some (now - bitTime / 2) else w.edge
        idle := false
        assembler := if w.idle then .within [] [] else w.assembler.take .dominant } := rfl

/-- A line that is not idle does not become so by its samples alone (R33; log entry 5), and its assembler takes each (R41). -/
theorem LineSamples.sample_busy (l : Level) (h : w.idle = false) :
    (w.sample bitTime now l).idle = false ∧ (w.sample bitTime now l).assembler = w.assembler.take l := by
  cases l <;> simp [LineSamples.sample, h]

/-- What the assembler makes of further samples of a line that is not idle (R41). -/
theorem LineSamples.readFrom_busy (ls : List Level) (h : w.idle = false) :
    (w.readFrom bitTime now ls).idle = false ∧
      (w.readFrom bitTime now ls).assembler = ls.foldl (fun a l => a.take l) w.assembler := by
  induction ls generalizing w now with
  | nil => exact ⟨h, rfl⟩
  | cons l rest ih =>
    obtain ⟨h1, h2⟩ := LineSamples.sample_busy bitTime now w l h
    rw [LineSamples.readFrom_cons, List.foldl_cons, ← h2]
    exact ih _ _ h1

/-- Recessive samples raise the idle count up to 12 and end a dominant run (R33, R39). -/
theorem LineSamples.readFrom_recessive (n : Nat) :
    w.readFrom bitTime now (List.replicate (n + 1) .recessive) =
      { w with
        idleCount := min (w.idleCount + (n + 1)) Config.idleBits
        stuckCount := 0
        sampledAt := now + n * bitTime
        stuck := false
        assembler := (List.replicate (n + 1) Level.recessive).foldl (fun a l => a.take l) w.assembler } := by
  induction n generalizing w now with
  | zero => simp [LineSamples.sample_recessive]
  | succ n ih =>
    rw [List.replicate_succ, LineSamples.readFrom_cons, ih, LineSamples.sample_recessive, List.foldl_cons]
    simp only [LineSamples.mk.injEq, true_and, and_true, Nat.add_mul, Config.idleBits]
    omega

/-- Dominant samples end a recessive run and raise the stuck count up to 65; a run's first one shows its edge, and on an idle line
it begins the first character of a frame (R33, R39, R41). -/
theorem LineSamples.readFrom_dominant (n : Nat) :
    w.readFrom bitTime now (List.replicate (n + 1) .dominant) =
      { w with
        idleCount := 0
        stuckCount := min (w.stuckCount + (n + 1)) Config.stuckBits
        sampledAt := now + n * bitTime
        edge := if w.stuckCount = 0 then some (now - bitTime / 2) else w.edge
        idle := false
        assembler := (List.replicate n Level.dominant).foldl (fun a l => a.take l)
          (if w.idle then .within [] [] else w.assembler.take .dominant) } := by
  induction n generalizing w now with
  | zero => simp [LineSamples.sample_dominant]
  | succ n ih =>
    rw [List.replicate_succ, LineSamples.readFrom_cons, ih, LineSamples.sample_dominant]
    simp only [LineSamples.mk.injEq, true_and, Nat.add_mul, Config.stuckBits]
    refine ⟨by omega, by omega, if_neg (by omega), ?_⟩
    simp [List.replicate_succ]

/-- Each sample that is read on falls a bit time after the one before it (R32). -/
@[simp] theorem LineSamples.readOn_sampledAt (ls : List Level) :
    (w.readOn bitTime ls).sampledAt = w.sampledAt + ls.length * bitTime := by
  unfold LineSamples.readOn
  suffices ∀ (ls : List Level) (now : Nat) (w : LineSamples), now = w.sampledAt + bitTime →
      (w.readFrom bitTime now ls).sampledAt = w.sampledAt + ls.length * bitTime from this ls _ w rfl
  intro ls
  induction ls with
  | nil => simp
  | cons l rest ih =>
    intro now w h
    rw [LineSamples.readFrom_cons, ih _ _ (by simp), LineSamples.sample_sampledAt, h, List.length_cons, Nat.add_mul]
    omega
@[simp] theorem LineSamples.readOn_quiet (ls : List Level) : (w.readOn bitTime ls).quiet = w.quiet :=
  LineSamples.readFrom_quiet _ _ _ _

/-! ### Spells of a line that the station does not drive -/

/-- Two spells of a quiet line are one (R33). -/
theorem LineSamples.restUntil_restUntil {bitTime a b : Nat} (h : a ≤ b) (w : LineSamples) :
    (w.restUntil bitTime a).restUntil bitTime b = w.restUntil bitTime b := by
  have rest : ∀ q, (b - (w.sampledAt + q * bitTime)) / bitTime = (b - w.sampledAt) / bitTime - q := by
    intro q
    rw [← Nat.sub_sub, Nat.mul_comm, Nat.sub_mul_div]
  have le : (a - w.sampledAt) / bitTime ≤ (b - w.sampledAt) / bitTime := Nat.div_le_div_right (by omega)
  unfold LineSamples.restUntil
  simp only [rest]
  generalize (a - w.sampledAt) / bitTime = m at le
  generalize (b - w.sampledAt) / bitTime = n at le
  simp only [LineSamples.mk.injEq, and_true, true_and, Config.idleBits]
  refine ⟨by omega, ?_, ?_, ?_⟩
  · by_cases hm : m = 0 <;> by_cases hn : n = m <;> by_cases h0 : n = 0 <;> simp_all
  · rw [Nat.add_assoc, ← Nat.add_mul]; congr 2; omega
  · by_cases hm : m = 0 <;> by_cases hn : n = m <;> by_cases h0 : n = 0 <;> simp_all

/-- Each sample of a line falls after the one before it. -/
theorem LineSamples.lt_nextSample (h : 2 ≤ bitTime) : w.sampledAt < w.nextSample bitTime := by
  unfold LineSamples.nextSample LineSamples.nextEdge
  split
  · rename_i e he
    split at he
    · split at he
      · cases he; omega
      · cases he
    · cases he
  · omega

/-- A line that other stations may drive has a sample of one level or the other, or, idle, only moves its sampling instant (R33). -/
theorem LineSamples.heardSample_cases :
    (w.idleCount = Config.idleBits ∧
      w.heardSample bitTime = { w with sampledAt := w.nextSample bitTime, edge := (w.nextEdge bitTime).or w.edge }) ∨
    (w.idleCount ≠ Config.idleBits ∧ ∃ l, (w.stuckCount = Config.stuckBits → w.stuck = false → l = .dominant) ∧
      w.heardSample bitTime =
        LineSamples.sample bitTime (w.nextSample bitTime) { w with edge := (w.nextEdge bitTime).or w.edge } l) := by
  unfold LineSamples.heardSample
  by_cases h : w.idleCount = Config.idleBits
  · exact .inl ⟨h, if_pos h⟩
  · refine .inr ⟨h, ?_⟩
    by_cases hd : ((w.stuckCount = Config.stuckBits && !w.stuck) || Config.heardDominant (w.nextSample bitTime)) = true
    · exact ⟨.dominant, fun _ _ => rfl, by simp only [h, if_false, hd, if_true]⟩
    · refine ⟨.recessive, fun h1 h2 => ?_, by simp only [h, if_false, hd, Bool.false_eq_true]⟩
      simp [h1, h2] at hd

@[simp] theorem LineSamples.heardSample_sampledAt : (w.heardSample bitTime).sampledAt = w.nextSample bitTime := by
  rcases LineSamples.heardSample_cases bitTime w with ⟨-, h⟩ | ⟨-, l, -, h⟩ <;> rw [h]
  simp

@[simp] theorem LineSamples.heardSample_quiet : (w.heardSample bitTime).quiet = w.quiet := by
  rcases LineSamples.heardSample_cases bitTime w with ⟨-, h⟩ | ⟨-, l, -, h⟩ <;> rw [h]
  simp

@[simp] theorem LineSamples.heardUntil_zero (t : Nat) : w.heardUntil bitTime t 0 = w := rfl
theorem LineSamples.heardUntil_succ (t n : Nat) :
    w.heardUntil bitTime t (n + 1) =
      if w.nextSample bitTime ≤ t then (w.heardSample bitTime).heardUntil bitTime t n else w := rfl

/-- What a sample between the commands keeps, any number of them keep. -/
theorem LineSamples.heardUntil_keeps {P : LineSamples → Prop} (hP : ∀ w : LineSamples, P w → P (w.heardSample bitTime))
    (t n : Nat) (h : P w) : P (w.heardUntil bitTime t n) := by
  induction n generalizing w with
  | zero => exact h
  | succ n ih =>
    rw [LineSamples.heardUntil_succ]
    split
    · exact ih _ (hP _ h)
    · exact h

@[simp] theorem LineSamples.heardUntil_quiet (t n : Nat) : (w.heardUntil bitTime t n).quiet = w.quiet :=
  LineSamples.heardUntil_keeps (P := fun v => v.quiet = w.quiet) bitTime w (by simp) t n rfl

/-- More room for samples than the time gives changes nothing. -/
theorem LineSamples.heardUntil_enough {bitTime : Nat} (hb : 2 ≤ bitTime) (t : Nat) {m n : Nat} (w : LineSamples)
    (hm : t - w.sampledAt ≤ m) (hn : t - w.sampledAt ≤ n) : w.heardUntil bitTime t m = w.heardUntil bitTime t n := by
  have later := LineSamples.lt_nextSample bitTime
  induction m generalizing n w with
  | zero =>
    cases n with
    | zero => rfl
    | succ n =>
      have := later w hb
      rw [LineSamples.heardUntil_succ, if_neg (by omega), LineSamples.heardUntil_zero]
  | succ m ih =>
    have := later w hb
    rw [LineSamples.heardUntil_succ]
    cases n with
    | zero => rw [if_neg (by omega), LineSamples.heardUntil_zero]
    | succ n =>
      rw [LineSamples.heardUntil_succ]
      split
      · exact ih _ (by simp; omega) (by simp; omega)
      · rfl

/-- Two spells of a line that other stations may drive are one. -/
theorem LineSamples.heardUntil_heardUntil {bitTime a b : Nat} (hb : 2 ≤ bitTime) (h : a ≤ b) (w : LineSamples) {m n k : Nat}
    (hm : a - w.sampledAt ≤ m) (hn : b - w.sampledAt ≤ n)
    (hk : b - (w.heardUntil bitTime a m).sampledAt ≤ k) :
    (w.heardUntil bitTime a m).heardUntil bitTime b k = w.heardUntil bitTime b n := by
  induction m generalizing w n with
  | zero => exact LineSamples.heardUntil_enough hb b w hk hn
  | succ m ih =>
    have later := LineSamples.lt_nextSample bitTime w hb
    rw [LineSamples.heardUntil_succ] at hk ⊢
    by_cases ha : w.nextSample bitTime ≤ a
    · rw [if_pos ha] at hk ⊢
      cases n with
      | zero => omega
      | succ n =>
        rw [ih _ (n := n) (by simp; omega) (by simp; omega) hk, LineSamples.heardUntil_succ, if_pos (by omega)]
    · rw [if_neg ha] at hk ⊢
      exact LineSamples.heardUntil_enough hb b w hk hn

/-! ### The line at a count -/

theorem two_le_bitTimeOf (r : LineRate) : 2 ≤ bitTimeOf r := by cases r <;> decide

/-- The line's samples at a later count do not depend on where they stood in between, but for that it has then come. -/
theorem State.sampledBy_sampledBy (s t : State) {a b : Nat} (h : a ≤ b) (hl : t.line = s.line)
    (ho : t.options = s.options) (hw : t.wire = s.sampledBy a) : t.sampledBy b = s.sampledBy b := by
  have hbit : t.bitTime = s.bitTime := by simp [State.bitTime, ho]
  unfold State.sampledBy State.ownRead State.bitMiddle
  rw [hl, hbit, hw]
  by_cases hs : s.line.sending = true
  · simp [hs]
  · unfold State.sampledBy
    by_cases hq : s.wire.quiet = true
    · simp only [hs, hq, Bool.false_eq_true, if_false, if_true]
      rw [if_pos (show (s.wire.restUntil _ a).quiet = true from hq), LineSamples.restUntil_restUntil h]
    · simp only [hs, hq, Bool.false_eq_true, if_false, LineSamples.heardUntil_quiet]
      exact LineSamples.heardUntil_heardUntil (two_le_bitTimeOf _) h _ (Nat.le_refl _) (Nat.le_refl _) (Nat.le_refl _)

end Sys2Proof.Machine
end

