-- ==== Sys2Proof/Laws/Time.lean ====
section
/-! SUPPORT. What the passing of time does: the time base, the PWM count, the bit counts of running operations and the samples of
the line advance, and nothing else changes (R1, R2, R32, R134, R140). -/

namespace Sys2Proof.Machine

open Sys2Proof

/-! ### Bit counts -/

@[simp] theorem Chain.runBits_state (b : Nat) (ch : Chain) : (ch.runBits b).state = ch.state := by
  unfold Chain.runBits; split <;> rfl
@[simp] theorem Chain.runBits_pend (b : Nat) (ch : Chain) : (ch.runBits b).pend = ch.pend := by
  unfold Chain.runBits; split <;> rfl
@[simp] theorem Chain.runBits_pendingValue (b : Nat) (ch : Chain) :
    (ch.runBits b).pendingValue = ch.pendingValue := by
  unfold Chain.runBits; split <;> rfl
@[simp] theorem Chain.runBits_pendingPosition (b : Nat) (ch : Chain) :
    (ch.runBits b).pendingPosition = ch.pendingPosition := by
  unfold Chain.runBits; split <;> rfl
@[simp] theorem Chain.runBits_duty (b : Nat) (ch : Chain) : (ch.runBits b).duty = ch.duty := by
  unfold Chain.runBits; split <;> rfl
@[simp] theorem Chain.runBits_census (b : Nat) (ch : Chain) : (ch.runBits b).census = ch.census := by
  unfold Chain.runBits; split <;> rfl
@[simp] theorem Chain.runBits_echoMiss (b : Nat) (ch : Chain) : (ch.runBits b).echoMiss = ch.echoMiss := by
  unfold Chain.runBits; split <;> rfl
@[simp] theorem Chain.runBits_lastMismatch (b : Nat) (ch : Chain) :
    (ch.runBits b).lastMismatch = ch.lastMismatch := by
  unfold Chain.runBits; split <;> rfl
@[simp] theorem Chain.runBits_register (b : Nat) (ch : Chain) : (ch.runBits b).register = ch.register := by
  unfold Chain.runBits; split <;> rfl
@[simp] theorem Chain.runBits_fifo (b : Nat) (ch : Chain) : (ch.runBits b).fifo = ch.fifo := by
  unfold Chain.runBits; split <;> rfl
@[simp] theorem Chain.runBits_sentValue (b : Nat) (ch : Chain) : (ch.runBits b).sentValue = ch.sentValue := by
  unfold Chain.runBits; split <;> rfl
@[simp] theorem Chain.runBits_lead (b : Nat) (ch : Chain) : (ch.runBits b).lead = ch.lead := by
  unfold Chain.runBits; split <;> rfl
@[simp] theorem Chain.runBits_sentPosition (b : Nat) (ch : Chain) :
    (ch.runBits b).sentPosition = ch.sentPosition := by
  unfold Chain.runBits; split <;> rfl
@[simp] theorem Chain.runBits_wordsDone (b : Nat) (ch : Chain) : (ch.runBits b).wordsDone = ch.wordsDone := by
  unfold Chain.runBits; split <;> rfl
@[simp] theorem Chain.runBits_entered (b : Nat) (ch : Chain) : (ch.runBits b).entered = ch.entered := by
  unfold Chain.runBits; split <;> rfl
@[simp] theorem Chain.runBits_finalArrived (b : Nat) (ch : Chain) :
    (ch.runBits b).finalArrived = ch.finalArrived := by
  unfold Chain.runBits; split <;> rfl
@[simp] theorem Chain.runBits_stalled (b : Nat) (ch : Chain) : (ch.runBits b).stalled = ch.stalled := by
  unfold Chain.runBits; split <;> rfl
@[simp] theorem Chain.runBits_selected (b : Nat) (ch : Chain) : (ch.runBits b).selected = ch.selected := by
  unfold Chain.runBits; split <;> rfl
@[simp] theorem Chain.runBits_sweepDue (b : Nat) (ch : Chain) : (ch.runBits b).sweepDue = ch.sweepDue := by
  unfold Chain.runBits; split <;> rfl
@[simp] theorem Chain.runBits_testDue (b : Nat) (ch : Chain) : (ch.runBits b).testDue = ch.testDue := by
  unfold Chain.runBits; split <;> rfl
@[simp] theorem Chain.runBits_retryDue (b : Nat) (ch : Chain) : (ch.runBits b).retryDue = ch.retryDue := by
  unfold Chain.runBits; split <;> rfl
@[simp] theorem Chain.runBits_bitLimit (b : Nat) (ch : Chain) : (ch.runBits b).bitLimit = ch.bitLimit := by
  unfold Chain.bitLimit; simp

/-- Running bits never carry a count beyond its limit. -/
theorem Chain.runBits_le (b : Nat) {ch : Chain} (h : ch.bitCount ≤ ch.bitLimit) :
    (ch.runBits b).bitCount ≤ ch.bitLimit := by
  unfold Chain.runBits
  split
  · exact h
  · exact Nat.min_le_right _ _

/-- A stopped shift clock gives no running bits (R128, R134). -/
theorem Chain.runBits_of_stalled (b : Nat) {ch : Chain} (h : ch.stalled = true) : ch.runBits b = ch := by
  simp [Chain.runBits, h]

/-! ### passHalves -/

variable (n d : Nat) (s : State)

@[simp] theorem State.passHalves_zero : s.passHalves 0 = s := by simp [State.passHalves]

/-- Time does not pass while reset is asserted (R1). -/
theorem State.passHalves_held (h : s.startUp.phase = .resetHeld) : s.passHalves n = s := by
  simp [State.passHalves, h]

/-- Half a microsecond can have passed only once the blocks are released. -/
theorem State.half_le : s.half ≤ 1 := by
  unfold State.half
  split
  · omega
  · exact Nat.zero_le 1

@[simp] theorem State.half_of_not_running (h : s.running = false) : s.half = 0 := by simp [State.half, h]

/-- What passes before the blocks are released (R1, R2). -/
theorem State.passHalves_unreleased (h : s.running = false) (hr : s.startUp.phase ≠ .resetHeld) :
    s.passHalves n = { s with timeBase := s.timeBase + n / 2 } := by
  unfold State.passHalves
  by_cases hn : n = 0
  · simp [hn]
  · simp [hn, hr, h]

/-- What passes once the blocks are released (R2, R32, R134, R140). -/
theorem State.passHalves_released (h : s.running = true) (hn : 0 < n) :
    s.passHalves n =
      { s with
        timeBase := s.timeBase + (s.half + n) / 2
        pwmCount := (s.pwmCount + Config.pwmPerHalf * n) % Config.pwmPeriod
        chains := s.chains.map (Chain.runBits n)
        wire := s.sampledBy (s.timeBase + (s.half + n) / 2) } := by
  have hp : s.startUp.phase ≠ .resetHeld := by
    simp only [State.running, decide_eq_true_eq] at h
    simp [h]
  simp [State.passHalves, h, hp, Nat.ne_of_gt hn]

/-- Everything that passing time can do, in one record update. -/
theorem State.passHalves_eq :
    s.passHalves n =
      { s with
        timeBase := (s.passHalves n).timeBase
        pwmCount := (s.passHalves n).pwmCount
        chains := (s.passHalves n).chains
        wire := (s.passHalves n).wire } := by
  unfold State.passHalves
  split
  · rfl
  · split <;> rfl

@[simp] theorem State.passHalves_startUp : (s.passHalves n).startUp = s.startUp := by rw [State.passHalves_eq]
@[simp] theorem State.passHalves_sensors : (s.passHalves n).sensors = s.sensors := by rw [State.passHalves_eq]
@[simp] theorem State.passHalves_line : (s.passHalves n).line = s.line := by rw [State.passHalves_eq]
@[simp] theorem State.passHalves_neighbours : (s.passHalves n).neighbours = s.neighbours := by rw [State.passHalves_eq]
@[simp] theorem State.passHalves_settling : (s.passHalves n).settling = s.settling := by rw [State.passHalves_eq]
@[simp] theorem State.passHalves_cap : (s.passHalves n).cap = s.cap := by rw [State.passHalves_eq]
@[simp] theorem State.passHalves_ports : (s.passHalves n).ports = s.ports := by rw [State.passHalves_eq]
@[simp] theorem State.passHalves_collector : (s.passHalves n).collector = s.collector := by rw [State.passHalves_eq]
@[simp] theorem State.passHalves_scanner : (s.passHalves n).scanner = s.scanner := by rw [State.passHalves_eq]
@[simp] theorem State.passHalves_faults : (s.passHalves n).faults = s.faults := by rw [State.passHalves_eq]
@[simp] theorem State.passHalves_requests : (s.passHalves n).requests = s.requests := by rw [State.passHalves_eq]
@[simp] theorem State.passHalves_responder : (s.passHalves n).responder = s.responder := by rw [State.passHalves_eq]
@[simp] theorem State.passHalves_pending : (s.passHalves n).pending = s.pending := by rw [State.passHalves_eq]
@[simp] theorem State.passHalves_options : (s.passHalves n).options = s.options := by simp [State.options]
@[simp] theorem State.passHalves_bitTime : (s.passHalves n).bitTime = s.bitTime := by simp [State.bitTime]
@[simp] theorem State.passHalves_ownAddress : (s.passHalves n).ownAddress = s.ownAddress := by simp [State.ownAddress]
@[simp] theorem State.passHalves_running : (s.passHalves n).running = s.running := by simp [State.running]
@[simp] theorem State.passHalves_used (c : Fin 4) : (s.passHalves n).used c = s.used c := by simp [State.used]
@[simp] theorem State.passHalves_chainOnPort (p : Fin 4) : (s.passHalves n).chainOnPort p = s.chainOnPort p :=
    by simp [State.chainOnPort]
@[simp] theorem State.passHalves_marked (c : Fin 4) (p : Nat) : (s.passHalves n).marked c p = s.marked c p :=
    by simp [State.marked, State.tileAt]

/-- R1: the time base counts whole microseconds unless reset holds it. -/
theorem State.passHalves_timeBase (h : s.startUp.phase ≠ .resetHeld) :
    (s.passHalves n).timeBase = s.timeBase + (s.half + n) / 2 := by
  have := s.half_le
  cases hr : s.running
  · simp [State.passHalves_unreleased _ _ hr h, hr]
  · rcases Nat.eq_zero_or_pos n with rfl | hn
    · rw [State.passHalves_zero]; omega
    · rw [State.passHalves_released _ _ hr hn]

theorem State.le_passHalves_timeBase : s.timeBase ≤ (s.passHalves n).timeBase := by
  by_cases h : s.startUp.phase = .resetHeld
  · rw [State.passHalves_held n s h]
  · rw [State.passHalves_timeBase n s h]; omega

/-- A chain after time has passed: its operation has run one bit in each half of a microsecond, once it is released (R2, R134). -/
theorem State.passHalves_chain (c : Fin 4) :
    (s.passHalves n).chains.get c = s.chains.get c ∨
      (s.passHalves n).chains.get c = (s.chains.get c).runBits n := by
  unfold State.passHalves
  split
  · exact .inl rfl
  · split
    · exact .inr (Table.get_map _ _ _)
    · exact .inl rfl

/-- A property of a chain that its running bits keep is kept as time passes. -/
theorem State.passHalves_chain_keeps (P : Chain → Prop) (hP : ∀ b ch, P ch → P (ch.runBits b)) (c : Fin 4)
    (h : P (s.chains.get c)) : P ((s.passHalves n).chains.get c) := by
  rcases State.passHalves_chain n s c with e | e <;> rw [e]
  · exact h
  · exact hP _ _ h

/-- A chain after time has passed is the chain before it but for its operation bit count. -/
theorem State.passHalves_chain_eq (c : Fin 4) :
    (s.passHalves n).chains.get c =
      { s.chains.get c with bitCount := ((s.passHalves n).chains.get c).bitCount } := by
  rcases State.passHalves_chain n s c with e | e <;> rw [e]
  unfold Chain.runBits
  split <;> rfl

/-- Two spells of running bits are one. -/
theorem Chain.runBits_runBits (a b : Nat) (ch : Chain) : (ch.runBits a).runBits b = ch.runBits (a + b) := by
  unfold Chain.runBits
  by_cases hs : (ch.stalled || ch.finalArrived) = true
  · simp [hs]
  · have limit : ∀ x, Chain.bitLimit { ch with bitCount := x } = ch.bitLimit := fun _ => rfl
    simp only [hs, Bool.false_eq_true, if_false, limit]
    simp only [Chain.mk.injEq, true_and, and_true]
    omega

/-- The half of a microsecond at which the present moment stands goes on with the time (R2). -/
theorem State.passHalves_half (h : s.running = true) : (s.passHalves n).half = (s.half + n) % 2 := by
  rcases Nat.eq_zero_or_pos n with rfl | hn
  · have := s.half_le
    rw [State.passHalves_zero]; omega
  · have hr : (s.passHalves n).running = true := by rw [State.passHalves_running, h]
    simp only [State.half, hr, h, if_true]
    rw [State.passHalves_released _ _ h hn]
    simp only [Config.pwmPerHalf, Config.pwmPeriod]
    omega

/-- Two spells of time are one, once the blocks are released or when the first is of whole microseconds. -/
theorem State.passHalves_add (a b : Nat) (h : s.running = true ∨ a % 2 = 0) :
    (s.passHalves a).passHalves b = s.passHalves (a + b) := by
  by_cases hp : s.startUp.phase = .resetHeld
  · rw [State.passHalves_held a s hp, State.passHalves_held b s hp, State.passHalves_held _ s hp]
  rcases Nat.eq_zero_or_pos a with rfl | ha
  · simp
  rcases Nat.eq_zero_or_pos b with rfl | hb
  · simp
  cases hr : s.running
  · have ha2 : a % 2 = 0 := by simpa [hr] using h
    rw [State.passHalves_unreleased _ (s.passHalves a) (by simp [hr]) (by simp [hp]),
      State.passHalves_unreleased _ _ hr hp, State.passHalves_unreleased _ _ hr hp]
    simp only [State.mk.injEq, and_true]
    omega
  · have half := State.passHalves_half a s hr
    rw [State.passHalves_released _ (s.passHalves a) (by simp [hr]) hb, half, State.passHalves_released _ _ hr ha,
      State.passHalves_released _ _ hr (by omega)]
    simp only [State.mk.injEq, and_true, true_and]
    have now : s.timeBase + (s.half + a) / 2 + ((s.half + a) % 2 + b) / 2 = s.timeBase + (s.half + (a + b)) / 2 := by omega
    refine ⟨now, by simp only [Config.pwmPeriod, Config.pwmPerHalf]; omega, ?_, ?_⟩
    · rw [now]
      exact State.sampledBy_sampledBy s _ (by omega) rfl rfl rfl
    · ext c
      simp only [Table.get_map, Chain.runBits_runBits]

/-- The line's samples after time has passed: as they stand at the count reached, once the line controller is released. -/
theorem State.passHalves_wire :
    (s.passHalves n).wire =
      if n = 0 ∨ s.running = false then s.wire else s.sampledBy (s.timeBase + (s.half + n) / 2) := by
  rcases Nat.eq_zero_or_pos n with rfl | hn
  · simp
  cases hr : s.running
  · simp only [or_true, if_true]
    by_cases hp : s.startUp.phase = .resetHeld
    · rw [State.passHalves_held _ _ hp]
    · rw [State.passHalves_unreleased _ _ hr hp]
  · rw [State.passHalves_released _ _ hr hn]
    simp [Nat.ne_of_gt hn]

/-! ### passTime and arriveAt -/

/-- Microseconds are pairs of halves. -/
@[simp] theorem State.passTime_eq : s.passTime d = s.passHalves (2 * d) := rfl

/-- Time does not pass while reset is asserted (R1). -/
theorem State.passTime_held (h : s.startUp.phase = .resetHeld) : s.passTime d = s := State.passHalves_held _ s h

/-- R1: the time base counts every microsecond unless reset holds it. -/
theorem State.passTime_timeBase (h : s.startUp.phase ≠ .resetHeld) : (s.passTime d).timeBase = s.timeBase + d := by
  have := s.half_le
  rw [State.passTime_eq, State.passHalves_timeBase _ _ h]
  omega

/-- Two spells of whole microseconds are one. -/
theorem State.passTime_add (a b : Nat) : (s.passTime a).passTime b = s.passTime (a + b) := by
  simp only [State.passTime_eq]
  rw [State.passHalves_add _ _ _ (.inr (by omega)), Nat.mul_add]

/-- Arriving is the passing of some time. -/
theorem State.arriveAt_eq (t : Nat) : s.arriveAt t = s.passHalves (2 * (t - s.timeBase) - s.half) := rfl

/-- No time passes on the way to a moment that has gone by. -/
theorem State.arriveAt_past {t : Nat} (h : t ≤ s.timeBase) : s.arriveAt t = s := by
  simp [State.arriveAt, Nat.sub_eq_zero_of_le h]

@[simp] theorem State.arriveAt_startUp (t : Nat) : (s.arriveAt t).startUp = s.startUp := State.passHalves_startUp _ _
@[simp] theorem State.arriveAt_sensors (t : Nat) : (s.arriveAt t).sensors = s.sensors := State.passHalves_sensors _ _
@[simp] theorem State.arriveAt_line (t : Nat) : (s.arriveAt t).line = s.line := State.passHalves_line _ _
@[simp] theorem State.arriveAt_neighbours (t : Nat) : (s.arriveAt t).neighbours = s.neighbours :=
    State.passHalves_neighbours _ _
@[simp] theorem State.arriveAt_settling (t : Nat) : (s.arriveAt t).settling = s.settling := State.passHalves_settling _ _
@[simp] theorem State.arriveAt_cap (t : Nat) : (s.arriveAt t).cap = s.cap := State.passHalves_cap _ _
@[simp] theorem State.arriveAt_ports (t : Nat) : (s.arriveAt t).ports = s.ports := State.passHalves_ports _ _
@[simp] theorem State.arriveAt_collector (t : Nat) : (s.arriveAt t).collector = s.collector := State.passHalves_collector _ _
@[simp] theorem State.arriveAt_scanner (t : Nat) : (s.arriveAt t).scanner = s.scanner := State.passHalves_scanner _ _
@[simp] theorem State.arriveAt_faults (t : Nat) : (s.arriveAt t).faults = s.faults := State.passHalves_faults _ _
@[simp] theorem State.arriveAt_requests (t : Nat) : (s.arriveAt t).requests = s.requests := State.passHalves_requests _ _
@[simp] theorem State.arriveAt_responder (t : Nat) : (s.arriveAt t).responder = s.responder := State.passHalves_responder _ _
@[simp] theorem State.arriveAt_pending (t : Nat) : (s.arriveAt t).pending = s.pending := State.passHalves_pending _ _
@[simp] theorem State.arriveAt_options (t : Nat) : (s.arriveAt t).options = s.options := State.passHalves_options _ _
@[simp] theorem State.arriveAt_bitTime (t : Nat) : (s.arriveAt t).bitTime = s.bitTime := State.passHalves_bitTime _ _
@[simp] theorem State.arriveAt_ownAddress (t : Nat) : (s.arriveAt t).ownAddress = s.ownAddress :=
    State.passHalves_ownAddress _ _
@[simp] theorem State.arriveAt_running (t : Nat) : (s.arriveAt t).running = s.running := State.passHalves_running _ _
@[simp] theorem State.arriveAt_used (t : Nat) (c : Fin 4) : (s.arriveAt t).used c = s.used c := State.passHalves_used _ _ _
@[simp] theorem State.arriveAt_chainOnPort (t : Nat) (p : Fin 4) : (s.arriveAt t).chainOnPort p = s.chainOnPort p :=
    State.passHalves_chainOnPort _ _ _
@[simp] theorem State.arriveAt_marked (t : Nat) (c : Fin 4) (p : Nat) : (s.arriveAt t).marked c p = s.marked c p :=
    State.passHalves_marked _ _ _ _

/-- The time base stands at the later of its count and the moment arrived at. -/
theorem State.arriveAt_timeBase (t : Nat) (h : s.startUp.phase ≠ .resetHeld) :
    (s.arriveAt t).timeBase = max s.timeBase t := by
  have := s.half_le
  rw [State.arriveAt, State.passHalves_timeBase _ _ h]; omega

theorem State.le_arriveAt_timeBase (t : Nat) : s.timeBase ≤ (s.arriveAt t).timeBase :=
  State.le_passHalves_timeBase _ _

/-! ### reachBit -/

/-- Reaching a bit is the passing of a half of a microsecond for each bit that is wanting, after which the chain's operation bit
count stands at that bit (R2). -/
theorem State.reachBit_eq (c : Fin 4) (k : Nat) :
    s.reachBit c k = (s.passHalves (k - (s.chains.get c).bitCount)).setChain c
      { (s.passHalves (k - (s.chains.get c).bitCount)).chains.get c with bitCount := k } := rfl

@[simp] theorem State.reachBit_startUp (c : Fin 4) (k : Nat) : (s.reachBit c k).startUp = s.startUp :=
    State.passHalves_startUp _ _
@[simp] theorem State.reachBit_sensors (c : Fin 4) (k : Nat) : (s.reachBit c k).sensors = s.sensors :=
    State.passHalves_sensors _ _
@[simp] theorem State.reachBit_line (c : Fin 4) (k : Nat) : (s.reachBit c k).line = s.line := State.passHalves_line _ _
@[simp] theorem State.reachBit_neighbours (c : Fin 4) (k : Nat) : (s.reachBit c k).neighbours = s.neighbours :=
    State.passHalves_neighbours _ _
@[simp] theorem State.reachBit_settling (c : Fin 4) (k : Nat) : (s.reachBit c k).settling = s.settling :=
    State.passHalves_settling _ _
@[simp] theorem State.reachBit_cap (c : Fin 4) (k : Nat) : (s.reachBit c k).cap = s.cap := State.passHalves_cap _ _
@[simp] theorem State.reachBit_ports (c : Fin 4) (k : Nat) : (s.reachBit c k).ports = s.ports := State.passHalves_ports _ _
@[simp] theorem State.reachBit_collector (c : Fin 4) (k : Nat) : (s.reachBit c k).collector = s.collector :=
    State.passHalves_collector _ _
@[simp] theorem State.reachBit_scanner (c : Fin 4) (k : Nat) : (s.reachBit c k).scanner = s.scanner :=
    State.passHalves_scanner _ _
@[simp] theorem State.reachBit_faults (c : Fin 4) (k : Nat) : (s.reachBit c k).faults = s.faults := State.passHalves_faults _ _
@[simp] theorem State.reachBit_requests (c : Fin 4) (k : Nat) : (s.reachBit c k).requests = s.requests :=
    State.passHalves_requests _ _
@[simp] theorem State.reachBit_responder (c : Fin 4) (k : Nat) : (s.reachBit c k).responder = s.responder :=
    State.passHalves_responder _ _
@[simp] theorem State.reachBit_pending (c : Fin 4) (k : Nat) : (s.reachBit c k).pending = s.pending :=
    State.passHalves_pending _ _
@[simp] theorem State.reachBit_options (c : Fin 4) (k : Nat) : (s.reachBit c k).options = s.options := by
  simp [State.options]
@[simp] theorem State.reachBit_marked (c : Fin 4) (k : Nat) (e : Fin 4) (p : Nat) :
    (s.reachBit c k).marked e p = s.marked e p := by
  simp [State.marked, State.tileAt]

/-- The chain whose bit is reached is the chain before it but for its operation bit count. -/
theorem State.reachBit_self (c : Fin 4) (k : Nat) :
    (s.reachBit c k).chains.get c = { s.chains.get c with bitCount := k } := by
  simp only [State.reachBit, State.setChain_chains, Table.get_set_self]
  rw [State.passHalves_chain_eq]

/-- The other chains only run on while the bit is reached. -/
theorem State.reachBit_other {c e : Fin 4} (h : e ≠ c) (k : Nat) :
    (s.reachBit c k).chains.get e = (s.passHalves (k - (s.chains.get c).bitCount)).chains.get e :=
  Table.get_set_other _ _ h

end Sys2Proof.Machine
end

