-- ==== Sys2Proof/Laws/Reception.lean ====
section
/-! SUPPORT. What hearing a good frame does (R42 to R44, R184). -/

namespace Sys2Proof.Machine

open Sys2Proof

@[simp] theorem State.arriveWith_line (w : LineSamples) (s : State) : (s.arriveWith w).line = s.line := State.arriveAt_line _ _
@[simp] theorem State.arriveWith_wire (w : LineSamples) (s : State) : (s.arriveWith w).wire = w := rfl
@[simp] theorem State.arriveWith_timeBase (w : LineSamples) (s : State) :
    (s.arriveWith w).timeBase = (s.arriveAt w.sampledAt).timeBase := rfl
@[simp] theorem State.arriveWith_startUp (w : LineSamples) (s : State) : (s.arriveWith w).startUp = s.startUp :=
    State.arriveAt_startUp _ _
@[simp] theorem State.arriveWith_neighbours (w : LineSamples) (s : State) : (s.arriveWith w).neighbours = s.neighbours :=
    State.arriveAt_neighbours _ _
@[simp] theorem State.arriveWith_cap (w : LineSamples) (s : State) : (s.arriveWith w).cap = s.cap := State.arriveAt_cap _ _
@[simp] theorem State.arriveWith_chains (w : LineSamples) (s : State) :
    (s.arriveWith w).chains = (s.arriveAt w.sampledAt).chains := rfl
@[simp] theorem State.arriveWith_collector (w : LineSamples) (s : State) : (s.arriveWith w).collector = s.collector :=
    State.arriveAt_collector _ _
@[simp] theorem State.arriveWith_faults (w : LineSamples) (s : State) : (s.arriveWith w).faults = s.faults :=
    State.arriveAt_faults _ _
@[simp] theorem State.arriveWith_requests (w : LineSamples) (s : State) : (s.arriveWith w).requests = s.requests :=
    State.arriveAt_requests _ _
@[simp] theorem State.arriveWith_responder (w : LineSamples) (s : State) : (s.arriveWith w).responder = s.responder :=
    State.arriveAt_responder _ _
@[simp] theorem State.arriveWith_ownAddress (w : LineSamples) (s : State) : (s.arriveWith w).ownAddress = s.ownAddress :=
    State.arriveAt_ownAddress _ _

@[simp] theorem State.countGood_startUp (s : State) : s.countGood.startUp = s.startUp := rfl
@[simp] theorem State.countGood_timeBase (s : State) : s.countGood.timeBase = s.timeBase := rfl
@[simp] theorem State.countGood_wire (s : State) : s.countGood.wire = s.wire := rfl
@[simp] theorem State.countGood_neighbours (s : State) : s.countGood.neighbours = s.neighbours := rfl
@[simp] theorem State.countGood_cap (s : State) : s.countGood.cap = s.cap := rfl
@[simp] theorem State.countGood_chains (s : State) : s.countGood.chains = s.chains := rfl
@[simp] theorem State.countGood_collector (s : State) : s.countGood.collector = s.collector := rfl
@[simp] theorem State.countGood_faults (s : State) : s.countGood.faults = s.faults := rfl
@[simp] theorem State.countGood_requests (s : State) : s.countGood.requests = s.requests := rfl
@[simp] theorem State.countGood_responder (s : State) : s.countGood.responder = s.responder := rfl
@[simp] theorem State.countGood_ownAddress (s : State) : s.countGood.ownAddress = s.ownAddress := rfl
@[simp] theorem State.countGood_listenOnly (s : State) : s.countGood.line.listenOnly = s.line.listenOnly := rfl
@[simp] theorem State.countGood_queue (s : State) : s.countGood.line.queue = s.line.queue := rfl

/-- A good frame bears the station's own address and is held back, or it is counted and handed on (R42 to R44). -/
theorem State.compare_cases (kind : BitVec 4) (sender : Addr) (take : State → State) (s : State) :
    (s.line.listenOnly = false ∧ sender = s.ownAddress ∧ s.compare kind sender take = s.countGood.clash kind) ∨
    ((s.line.listenOnly = true ∨ sender ≠ s.ownAddress) ∧ s.compare kind sender take = take s.countGood) := by
  unfold State.compare State.clashes
  cases hl : s.line.listenOnly <;> by_cases ha : sender = s.ownAddress <;> simp [ha]

/-- Everything that hearing a frame can do: nothing where it is not on the line; and otherwise time passes until its last sample, and
it is held back, or counted and handed on (R41 to R44). -/
theorem State.hear_cases (octets : List Octet) (kind : BitVec 4) (sender : Addr) (take : State → State) (s : State) :
    (s.lineAfterGood octets = none ∧ s.hear octets kind sender take = s) ∨
    ∃ w, s.lineAfterGood octets = some w ∧
      ((s.line.listenOnly = false ∧ sender = s.ownAddress ∧
          s.hear octets kind sender take = (s.arriveWith w).countGood.clash kind) ∨
        ((s.line.listenOnly = true ∨ sender ≠ s.ownAddress) ∧
          s.hear octets kind sender take = take (s.arriveWith w).countGood)) := by
  unfold State.hear
  cases h : s.lineAfterGood octets with
  | none => exact .inl ⟨rfl, rfl⟩
  | some w => exact .inr ⟨w, rfl, by simpa using State.compare_cases kind sender take (s.arriveWith w)⟩

/-- The line after a good frame: its rest has been read, no station drives the line, and the assembler is empty (R41, R42). -/
theorem State.lineAfterGood_eq_some {octets : List Octet} {s : State} {w : LineSamples} :
    s.lineAfterGood octets = some w ↔
      ∃ v, s.lineAfter (charactersLevels octets) = some v ∧ v.assembler = .ended octets .complete ∧
        octetSum octets = 255 ∧ w = { v with quiet := true, assembler := .empty } := by
  unfold State.lineAfterGood
  cases s.lineAfter (charactersLevels octets) with
  | none => simp
  | some v =>
    simp only [Option.bind_some, Option.some.injEq, exists_eq_left']
    by_cases h : v.assembler = .ended octets .complete <;> by_cases g : octetSum octets = 255 <;> simp [h, g, goodSum, eq_comm]

/-- A query heard changes nothing, is held back, is not for this station, or is answered, at its last sample. -/
theorem State.hearQuery_cases (q : Query) (respond : State → State) (s : State) :
    s.hearQuery q respond = s ∨ ∃ w, s.lineAfterGood q.frameOctets = some w ∧
      (s.hearQuery q respond = (s.arriveWith w).countGood.clash 4 ∨ s.hearQuery q respond = (s.arriveWith w).countGood ∨
        (s.line.listenOnly = false ∧ q.asker ≠ s.ownAddress ∧ q.target = s.ownAddress.setWidth 16 ∧
          s.hearQuery q respond = respond (s.arriveWith w).countGood)) := by
  unfold State.hearQuery
  rcases State.hear_cases q.frameOctets 4 q.asker (fun t => if t.addressed q.target then respond t else t) s with
    ⟨-, h⟩ | ⟨w, hw, ⟨-, -, h⟩ | ⟨hs, h⟩⟩
  · exact .inl h
  · exact .inr ⟨w, hw, .inl h⟩
  · rw [h]
    refine .inr ⟨w, hw, .inr ?_⟩
    by_cases hq : (s.arriveWith w).countGood.addressed q.target = true
    · have hq' := hq
      simp only [State.addressed, State.countGood_listenOnly, State.countGood_ownAddress, State.arriveWith_line,
        State.arriveWith_ownAddress, Bool.and_eq_true, Bool.not_eq_true', decide_eq_true_eq] at hq'
      exact .inr ⟨hq'.1, by simpa [hq'.1] using hs, hq'.2, if_pos hq⟩
    · exact .inl (if_neg hq)

/-- A reply is a frame of urgency ORDER whose payload is its data behind six octets (R185). -/
theorem State.reply_eq (q : Query) (status : ReplyStatus) (data : List Octet) (s : State) :
    ∃ f : Frame, f.kind = .reply ∧ f.urgency = .order ∧ f.sender = s.ownAddress ∧
      f.payload.length = data.length + 6 ∧ s.reply q status data = s.offerFrame f :=
  ⟨_, rfl, rfl, rfl, by simp [replyPayload, twoOctets], rfl⟩

end Sys2Proof.Machine
end

