-- ==== Sys2Proof/Laws/Assembly.lean ====
section
/-! SUPPORT. The receive assembler: what its characters' levels make of it, and that it and the counts of samples stay sound from
sample to sample (R33, R39, R41). -/

namespace Sys2Proof.Machine

open Sys2Proof

/-- The assembler after further samples. -/
abbrev Assembler.takeAll (ls : List Level) (a : Assembler) : Assembler := ls.foldl (fun a l => a.take l) a

@[simp] theorem charactersLevels_nil : charactersLevels [] = [] := rfl
@[simp] theorem charactersLevels_length (a : List Octet) : (charactersLevels a).length = 10 * a.length := by
  induction a with
  | nil => rfl
  | cons o rest ih =>
    have : charactersLevels (o :: rest) = characterLevels o .recessive ++ charactersLevels rest := rfl
    simp [this, ih, characterLevels]
    omega
theorem charactersLevels_append (a b : List Octet) :
    charactersLevels (a ++ b) = charactersLevels a ++ charactersLevels b := List.flatMap_append
theorem charactersLevels_concat (a : List Octet) (o : Octet) :
    charactersLevels (a ++ [o]) = charactersLevels a ++ .dominant :: ((List.range 8).map (fun i => levelOf (o.getMsbD i)) ++
      [.recessive]) := by
  simp [charactersLevels, characterLevels]

/-- The octet of a character's data samples is the octet that its levels send (R32, R41). -/
theorem octetOf_levels (o : Octet) : octetOf ((List.range 8).map fun i => levelOf (o.getMsbD i)) = o := by
  revert o
  decide

/-- The stop sample of a character (R41). -/
theorem Assembler.take_stop (cs : List Octet) (bits : List Level) (stop : Level) (h : bits.length = 8) :
    (Assembler.within cs bits).take stop =
      if stop = .dominant then .ended (cs ++ [octetOf bits]) .framingError else Assembler.after (cs ++ [octetOf bits]) := by
  cases stop <;> exact if_neg (by omega)

/-- Data samples within a character (R41). -/
theorem Assembler.takeAll_bits (cs : List Octet) (bits more : List Level) (h : bits.length + more.length ≤ 8) :
    (Assembler.within cs bits).takeAll more = .within cs (bits ++ more) := by
  induction more generalizing bits with
  | nil => simp
  | cons l rest ih =>
    simp only [List.length_cons] at h
    have step : (Assembler.within cs bits).take l = .within cs (bits ++ [l]) := if_pos (by omega)
    rw [Assembler.takeAll, List.foldl_cons, step]
    exact (ih _ (by simp; omega)).trans (by simp)

/-- The data samples and the stop sample of a character after its start bit (R41). -/
theorem Assembler.takeAll_character (cs : List Octet) (o : Octet) (stop : Level) :
    (Assembler.between cs).takeAll (.dominant :: ((List.range 8).map (fun i => levelOf (o.getMsbD i)) ++ [stop])) =
      if stop = .dominant then .ended (cs ++ [o]) .framingError else Assembler.after (cs ++ [o]) := by
  rw [Assembler.takeAll, List.foldl_cons, List.foldl_append]
  have bits := Assembler.takeAll_bits cs [] ((List.range 8).map fun i => levelOf (o.getMsbD i)) (by simp)
  simp only [Assembler.takeAll, List.nil_append] at bits
  rw [show (Assembler.between cs).take .dominant = .within cs [] from rfl, bits, List.foldl_cons, List.foldl_nil]
  rw [Assembler.take_stop _ _ _ (by simp), octetOf_levels]

/-- A frame that only begins waits for its next character (R41). -/
theorem Assembler.after_begins {cs : List Octet} (h : beginsFrame cs = true) : Assembler.after cs = .between cs := by
  unfold beginsFrame at h
  unfold Assembler.after
  cases hn : cs[2]? with
  | none => rfl
  | some n =>
    simp only [hn, Bool.and_eq_true, decide_eq_true_eq] at h
    simp only [if_neg (show ¬Config.payloadMax < n.toNat by omega), if_neg (show ¬n.toNat + 4 ≤ cs.length by omega)]

/-- A complete frame (R41). -/
theorem Assembler.after_complete {cs : List Octet} (h : completeFrame cs = true) : Assembler.after cs = .ended cs .complete := by
  unfold completeFrame at h
  unfold Assembler.after
  cases hn : cs[2]? with
  | none => simp [hn] at h
  | some n =>
    simp only [hn, Bool.and_eq_true, decide_eq_true_eq] at h
    simp only [if_neg (show ¬Config.payloadMax < n.toNat by omega), if_pos (show n.toNat + 4 ≤ cs.length by omega)]

/-- A bad length (R41). -/
theorem Assembler.after_bad {cs : List Octet} {n : Octet} (h : cs[2]? = some n) (hn : Config.payloadMax < n.toNat) :
    Assembler.after cs = .ended cs .badLength := by
  simp [Assembler.after, h, hn]

theorem beginsFrame_concat {cs : List Octet} {o : Octet} (h : beginsFrame (cs ++ [o]) = true) : beginsFrame cs = true := by
  unfold beginsFrame at h ⊢
  cases hn : cs[2]? with
  | none => rfl
  | some n =>
    have : (cs ++ [o])[2]? = some n := by
      rw [List.getElem?_append_left ((List.getElem?_eq_some_iff.mp hn).1), hn]
    simp only [this, Bool.and_eq_true, decide_eq_true_eq, List.length_append, List.length_singleton] at h ⊢
    omega

theorem beginsFrame_of_complete {cs : List Octet} {o : Octet} (h : completeFrame (cs ++ [o]) = true) : beginsFrame cs = true := by
  unfold completeFrame at h
  unfold beginsFrame
  cases hn : cs[2]? with
  | none => rfl
  | some n =>
    have : (cs ++ [o])[2]? = some n := by
      rw [List.getElem?_append_left ((List.getElem?_eq_some_iff.mp hn).1), hn]
    simp only [this, Bool.and_eq_true, decide_eq_true_eq, List.length_append, List.length_singleton] at h ⊢
    omega

/-- The characters of the beginning of a frame, read from its first start bit on (R41). -/
theorem Assembler.takeAll_begins (cs : List Octet) (h : beginsFrame cs = true) :
    (Assembler.between []).takeAll (charactersLevels cs) = .between cs := by
  induction cs using List.reverseRecOn with
  | nil => rfl
  | append_singleton cs o ih =>
    rw [charactersLevels_concat, Assembler.takeAll, List.foldl_append]
    rw [Assembler.takeAll] at ih
    rw [ih (beginsFrame_concat h)]
    exact (Assembler.takeAll_character cs o .recessive).trans (Assembler.after_begins h)

/-- The characters of a frame up to one at which the assembly may end (R41). -/
theorem Assembler.takeAll_after {cs : List Octet} {o : Octet} (h : beginsFrame cs = true) :
    (Assembler.between []).takeAll (charactersLevels (cs ++ [o])) = Assembler.after (cs ++ [o]) := by
  rw [charactersLevels_concat, Assembler.takeAll, List.foldl_append]
  have begun := Assembler.takeAll_begins cs h
  rw [Assembler.takeAll] at begun
  rw [begun]
  exact Assembler.takeAll_character cs o .recessive

/-- A sound assembler is what the levels that it has read make of it (R41). -/
theorem Assembler.takeAll_read {a : Assembler} {read : List Level} (hs : a.sound = true) (hr : a.read = some read) :
    (Assembler.between []).takeAll read = a := by
  cases a with
  | empty => cases hr
  | ignoring => cases hr
  | between cs =>
    simp only [Assembler.sound, Bool.and_eq_true] at hs
    cases hr
    exact Assembler.takeAll_begins cs hs.2
  | within cs bits =>
    simp only [Assembler.sound, Bool.and_eq_true, decide_eq_true_eq] at hs
    cases hr
    have begun := Assembler.takeAll_begins cs hs.1
    rw [Assembler.takeAll] at begun ⊢
    rw [List.foldl_append, begun, List.foldl_cons]
    exact (Assembler.takeAll_bits cs [] bits (by simpa using hs.2)).trans (by simp)
  | ended cs reason =>
    simp only [Assembler.sound, Bool.and_eq_true, Bool.not_eq_true'] at hs
    obtain ⟨⟨hne, hb⟩, he⟩ := hs
    obtain ⟨init, o, rfl⟩ : ∃ init o, cs = init ++ [o] := by
      rcases List.eq_nil_or_concat' cs with rfl | ⟨init, o, h⟩
      · simp at hne
      · exact ⟨init, o, h⟩
    simp only [List.dropLast_concat] at hb
    cases hr
    cases reason with
    | framingError =>
      rw [if_pos rfl, framingLevels, charactersLevels_concat, ← List.cons_append, ← List.append_assoc, List.dropLast_concat,
        List.append_assoc, Assembler.takeAll, List.foldl_append]
      have begun := Assembler.takeAll_begins init hb
      rw [Assembler.takeAll] at begun
      rw [begun]
      exact Assembler.takeAll_character init o .dominant
    | badLength =>
      rw [if_neg (by decide), Assembler.takeAll_after hb]
      cases hn : (init ++ [o])[2]? with
      | none => simp [hn] at he
      | some n => exact Assembler.after_bad hn (by simpa [hn] using he)
    | complete =>
      rw [if_neg (by decide), Assembler.takeAll_after hb]
      exact Assembler.after_complete he

/-- A complete frame whose levels begin with those that a sound assembler has read is complete when the rest is read (R41). -/
theorem Assembler.takeAll_rest {a : Assembler} {octets : List Octet} {read more : List Level} (hs : a.sound = true)
    (hr : a.read = some read) (h : charactersLevels octets = read ++ more) (hc : completeFrame octets = true) :
    a.takeAll more = .ended octets .complete := by
  obtain ⟨init, o, rfl⟩ : ∃ init o, octets = init ++ [o] := by
    rcases List.eq_nil_or_concat' octets with rfl | ⟨init, o, h⟩
    · simp [completeFrame] at hc
    · exact ⟨init, o, h⟩
  have whole := Assembler.takeAll_after (o := o) (beginsFrame_of_complete hc)
  rw [h, Assembler.takeAll, List.foldl_append, Assembler.after_complete hc] at whole
  rw [← whole]
  congr 1
  exact (Assembler.takeAll_read hs hr).symm

/-! ### The assembler and the counts of samples stay sound -/

theorem Assembler.after_sound {cs : List Octet} {o : Octet} (h : beginsFrame cs = true) :
    (Assembler.after (cs ++ [o])).sound = true := by
  unfold Assembler.after
  cases hn : (cs ++ [o])[2]? with
  | none => simp [Assembler.sound, beginsFrame, hn]
  | some n =>
    by_cases h24 : Config.payloadMax < n.toNat
    · simp [h24, Assembler.sound, h, hn]
    · by_cases hl : n.toNat + 4 ≤ (cs ++ [o]).length
      · have : (cs ++ [o]).length ≤ n.toNat + 4 := by
          unfold beginsFrame at h
          cases hc : cs[2]? with
          | none =>
            have := List.getElem?_eq_none_iff.mp hc
            simp; omega
          | some m =>
            have e : (cs ++ [o])[2]? = some m := by
              rw [List.getElem?_append_left ((List.getElem?_eq_some_iff.mp hc).1), hc]
            obtain rfl := Option.some.inj (hn.symm.trans e)
            simp only [hc, Bool.and_eq_true, decide_eq_true_eq] at h
            simp; omega
        simp only [if_neg h24, if_pos hl, Assembler.sound, List.dropLast_concat, h, completeFrame, hn, Bool.and_true,
          Bool.and_eq_true, decide_eq_true_eq, Bool.not_eq_true', List.isEmpty_eq_false_iff]
        exact ⟨by simp, by omega, by omega⟩
      · simp only [if_neg h24, if_neg hl, Assembler.sound, beginsFrame, hn, Bool.and_eq_true, decide_eq_true_eq,
          Bool.not_eq_true', List.isEmpty_eq_false_iff]
        exact ⟨by simp, by omega, by omega⟩

/-- A sample keeps the assembler sound (R41). -/
theorem Assembler.take_sound {a : Assembler} (l : Level) (h : a.sound = true) : (a.take l).sound = true := by
  cases a with
  | empty => rfl
  | ignoring => rfl
  | ended cs reason => exact h
  | between cs =>
    cases l with
    | recessive => exact h
    | dominant =>
      simp only [Assembler.sound, Bool.and_eq_true] at h
      simp [Assembler.take, Assembler.sound, h.2]
  | within cs bits =>
    simp only [Assembler.sound, Bool.and_eq_true, decide_eq_true_eq] at h
    by_cases hb : bits.length < 8
    · rw [show (Assembler.within cs bits).take l = .within cs (bits ++ [l]) from if_pos hb]
      simp only [Assembler.sound, h.1, List.length_append, List.length_singleton, Bool.true_and, decide_eq_true_eq]
      omega
    · rw [Assembler.take_stop cs bits l (by omega)]
      split
      · simp [Assembler.sound, h.1]
      · exact Assembler.after_sound h.1

variable {bitTime now : Nat} {w : LineSamples}

/-- A sample keeps the line sound; on one that no station drives it is recessive (R33, R39, R41). -/
theorem LineSamples.sample_sound {l : Level} (h : w.Sound) (hl : w.quiet = false ∨ l = .recessive) :
    (w.sample bitTime now l).Sound := by
  obtain ⟨h1, h2, h3, h4, h5, h6, h7⟩ := h
  cases l with
  | recessive =>
    refine ⟨Nat.min_le_right _ _, Nat.zero_le _, .inr rfl, fun hi => ?_, fun hs => ?_, fun hq => ?_, Assembler.take_sound .recessive h7⟩
    · obtain ⟨e, a⟩ := h4 hi
      simp [LineSamples.sample, e, a, Assembler.take]
    · cases hs
    · rcases h6 hq with a | a <;> simp [LineSamples.sample, a, Assembler.take]
  | dominant =>
    have hq : w.quiet = false := by simpa using hl
    refine ⟨Nat.zero_le _, Nat.min_le_right _ _, .inl rfl, fun hi => ?_, fun hs => ?_, fun e => ?_, ?_⟩
    · cases hi
    · simp [LineSamples.sample, h5 hs]
    · simp [LineSamples.sample, hq] at e
    · simp only [LineSamples.sample]
      split
      · rfl
      · exact Assembler.take_sound _ h7

theorem LineSamples.readFrom_sound {ls : List Level} (h : w.Sound) (hl : w.quiet = false ∨ ∀ l ∈ ls, l = .recessive) :
    (w.readFrom bitTime now ls).Sound := by
  induction ls generalizing w now with
  | nil => exact h
  | cons l rest ih =>
    refine ih (LineSamples.sample_sound h (hl.imp id fun g => g l (by simp))) ?_
    simpa using hl.imp id fun g l' hl' => g l' (by simp [hl'])

theorem LineSamples.readOn_sound {ls : List Level} (h : w.Sound) (hl : w.quiet = false ∨ ∀ l ∈ ls, l = .recessive) :
    (w.readOn bitTime ls).Sound := LineSamples.readFrom_sound h hl

/-- Recessive samples up to the twelfth bring the idle count there (R33). -/
theorem LineSamples.toTwelfth_idleCount (h : w.idleCount ≤ Config.idleBits) :
    (w.toTwelfth bitTime).idleCount = Config.idleBits := by
  unfold LineSamples.toTwelfth LineSamples.readOn
  rcases Nat.eq_or_lt_of_le h with e | hlt
  · simp [e]
  · obtain ⟨n, hn⟩ : ∃ n, Config.idleBits - w.idleCount = n + 1 := ⟨_, (Nat.sub_add_cancel (by omega)).symm⟩
    rw [hn, LineSamples.readFrom_recessive]
    simp only
    omega

theorem LineSamples.toTwelfth_sound (h : w.Sound) : (w.toTwelfth bitTime).Sound :=
  LineSamples.readOn_sound h (.inr fun _ hl => List.eq_of_mem_replicate hl)

theorem LineSamples.atStart_sound (t : Nat) : (LineSamples.atStart t).Sound := by
  simp [LineSamples.Sound, LineSamples.atStart, Assembler.sound, Config.stuckBits]

theorem LineSamples.restUntil_sound {t : Nat} (h : w.Sound) : (w.restUntil bitTime t).Sound := by
  obtain ⟨h1, h2, h3, h4, h5, h6, h7⟩ := h
  unfold LineSamples.restUntil
  by_cases hn : (t - w.sampledAt) / bitTime = 0
  · simp only [hn, if_true, Nat.add_zero, Nat.zero_mul]
    refine ⟨Nat.min_le_right _ _, h2, h3.imp (fun e => by simp [e]) id, fun hi => ?_, by simpa using h5, h6, h7⟩
    obtain ⟨e, a⟩ := h4 hi
    exact ⟨by simp [e], a⟩
  · simp only [hn, if_false, decide_false, Bool.and_false]
    refine ⟨Nat.min_le_right _ _, Nat.zero_le _, .inr rfl, fun hi => ?_, fun hs => by simp at hs, h6, h7⟩
    obtain ⟨e, a⟩ := h4 hi
    exact ⟨by simp [e], a⟩

theorem LineSamples.heardSample_sound (h : w.Sound) (hq : w.quiet = false) : (w.heardSample bitTime).Sound := by
  rcases LineSamples.heardSample_cases bitTime w with ⟨-, e⟩ | ⟨-, l, -, e⟩ <;> rw [e]
  · exact h
  · exact LineSamples.sample_sound (w := { w with edge := _ }) h (.inl hq)

theorem LineSamples.heardUntil_sound (t n : Nat) (h : w.Sound) (hq : w.quiet = false) : (w.heardUntil bitTime t n).Sound :=
  (LineSamples.heardUntil_keeps (P := fun v => v.Sound ∧ v.quiet = false) bitTime w
    (fun v hv => ⟨LineSamples.heardSample_sound hv.1 hv.2, by simp [hv.2]⟩) t n ⟨h, hq⟩).1

/-- The line stays sound as time passes (R33, R39, R41). -/
theorem State.sampledBy_sound {s : State} (t : Nat) (h : s.wire.Sound) : (s.sampledBy t).Sound := by
  unfold State.sampledBy
  split
  · exact LineSamples.readFrom_sound (LineSamples.atStart_sound _) (.inl rfl)
  · split
    · exact LineSamples.restUntil_sound h
    · next hq => exact LineSamples.heardUntil_sound _ _ h (by simpa using hq)

theorem State.passHalves_sound {s : State} (n : Nat) (h : s.wire.Sound) : (s.passHalves n).wire.Sound := by
  rw [State.passHalves_wire]
  split
  · exact h
  · exact State.sampledBy_sound _ h

/-! ### A frame heard -/

/-- The characters of a good frame are those of a complete one, and their sum is good (R41, R42). -/
theorem frameOctets_complete (key : BitVec 16) {payload : List Octet} (h : payload.length ≤ Config.payloadMax) :
    completeFrame (frameOctets key payload) = true ∧ octetSum (frameOctets key payload) = 255 := by
  have h24 : payload.length ≤ 24 := h
  constructor
  · simp only [completeFrame, frameOctets, frameBody, List.cons_append, List.nil_append, List.getElem?_cons_succ,
      List.getElem?_cons_zero, Bool.and_eq_true, decide_eq_true_eq, List.length_cons, List.length_append, List.length_nil,
      octet, BitVec.toNat_ofNat, Config.payloadMax]
    omega
  · have : octetSum (frameBody key payload) < 256 := Nat.mod_lt _ (by decide)
    unfold frameOctets
    rw [octetSum, List.map_append, List.sum_append]
    simp only [checkOf, octet, List.map_cons, List.map_nil, List.sum_cons, List.sum_nil, BitVec.toNat_ofNat]
    unfold octetSum at this ⊢
    omega

/-- The samples that a station has still to read of a complete frame make it complete at its assembler (R41). -/
theorem State.lineAfterGood_of_hears {s u : State} {octets : List Octet} (h : s.Hears octets u)
    (hc : completeFrame octets = true) (hg : octetSum octets = 255) :
    ∃ w, s.lineAfterGood octets = some w ∧ u = s.arriveWith w := by
  obtain ⟨hr, hs, hw, read, more, w, ha, hl, rfl, rfl⟩ := h
  have busy : s.wire.idle = false := by
    by_contra hi
    have := (hw.2.2.2.1 (by simpa using hi)).2
    rw [this] at ha
    cases ha
  refine ⟨_, State.lineAfterGood_eq_some.mpr ⟨_, ?_, ?_, hg, rfl⟩, rfl⟩
  · unfold State.lineAfter Assembler.rest
    simp only [hr, hs, ha, hl, Bool.not_false, Bool.and_self, if_true, List.isPrefixOf_iff_prefix, List.prefix_append,
      List.drop_left, Option.map_some]
    rfl
  · exact ((LineSamples.readFrom_busy _ _ _ _ busy).2).trans (Assembler.takeAll_rest hw.2.2.2.2.2.2 ha hl hc)

/-- Hearing a good frame, part of which has been read: it is compared, and handed on or held back, at its last sample (R41 to R44). -/
theorem State.hear_of_hears {s u : State} {octets : List Octet} (h : s.Hears octets u) (hc : completeFrame octets = true)
    (hg : octetSum octets = 255) (kind : BitVec 4) (sender : Addr) (take : State → State) :
    s.hear octets kind sender take = u.compare kind sender take := by
  obtain ⟨w, hw, rfl⟩ := State.lineAfterGood_of_hears h hc hg
  simp [State.hear, hw]

end Sys2Proof.Machine
end

