-- ==== Sys2Proof/Laws/Requests.lean ====
section
/-! SUPPORT. What making, ordering and taking a request of the fault table does (R166). -/

namespace Sys2Proof.Machine

open Sys2Proof

/-- A request as a requester makes it at a count. -/
def Request.made (at_ : Nat) (r : FaultKind × Source × FaultAction) : Request :=
  { madeAt := at_, kind := r.1, source := r.2.1, action := r.2.2 }

/-- Requests made together join those that wait, in their order and at the present count; nothing else changes. -/
theorem State.requestAll_eq (s : State) (rs : List (FaultKind × Source × FaultAction)) :
    s.requestAll rs = { s with requests := s.requests ++ rs.map (Request.made s.timeBase) } := by
  unfold State.requestAll
  induction rs generalizing s with
  | nil => simp
  | cons r rest ih =>
    rw [List.foldl_cons, ih]
    simp [State.request, Request.made]

@[simp] theorem State.requestAll_timeBase (s : State) (rs) : (s.requestAll rs).timeBase = s.timeBase := by
  rw [State.requestAll_eq]
@[simp] theorem State.requestAll_pwmCount (s : State) (rs) : (s.requestAll rs).pwmCount = s.pwmCount := by
  rw [State.requestAll_eq]
@[simp] theorem State.requestAll_startUp (s : State) (rs) : (s.requestAll rs).startUp = s.startUp := by
  rw [State.requestAll_eq]
@[simp] theorem State.requestAll_sensors (s : State) (rs) : (s.requestAll rs).sensors = s.sensors := by
  rw [State.requestAll_eq]
@[simp] theorem State.requestAll_line (s : State) (rs) : (s.requestAll rs).line = s.line := by
  rw [State.requestAll_eq]
@[simp] theorem State.requestAll_wire (s : State) (rs) : (s.requestAll rs).wire = s.wire := by
  rw [State.requestAll_eq]
@[simp] theorem State.requestAll_neighbours (s : State) (rs) : (s.requestAll rs).neighbours = s.neighbours := by
  rw [State.requestAll_eq]
@[simp] theorem State.requestAll_settling (s : State) (rs) : (s.requestAll rs).settling = s.settling := by
  rw [State.requestAll_eq]
@[simp] theorem State.requestAll_cap (s : State) (rs) : (s.requestAll rs).cap = s.cap := by rw [State.requestAll_eq]
@[simp] theorem State.requestAll_chains (s : State) (rs) : (s.requestAll rs).chains = s.chains := by
  rw [State.requestAll_eq]
@[simp] theorem State.requestAll_ports (s : State) (rs) : (s.requestAll rs).ports = s.ports := by
  rw [State.requestAll_eq]
@[simp] theorem State.requestAll_collector (s : State) (rs) : (s.requestAll rs).collector = s.collector := by
  rw [State.requestAll_eq]
@[simp] theorem State.requestAll_scanner (s : State) (rs) : (s.requestAll rs).scanner = s.scanner := by
  rw [State.requestAll_eq]
@[simp] theorem State.requestAll_faults (s : State) (rs) : (s.requestAll rs).faults = s.faults := by
  rw [State.requestAll_eq]
@[simp] theorem State.requestAll_requests (s : State) (rs) :
    (s.requestAll rs).requests = s.requests ++ rs.map (Request.made s.timeBase) := by
  rw [State.requestAll_eq]
@[simp] theorem State.requestAll_responder (s : State) (rs) : (s.requestAll rs).responder = s.responder := by
  rw [State.requestAll_eq]
@[simp] theorem State.requestAll_pending (s : State) (rs) : (s.requestAll rs).pending = s.pending := by
  rw [State.requestAll_eq]

/-- Taking a request out leaves the others in their order. -/
theorem dropRequest_sublist (kind : FaultKind) (source : Source) (action : FaultAction) (rs : List Request) :
    (dropRequest kind source action rs).Sublist rs := List.eraseP_sublist

/-- A request whose turn has come waits, and only requests made at the same count by other requesters stand before it (R166). -/
theorem turnOf_spec {kind : FaultKind} {source : Source} {action : FaultAction} {ahead rs : List Request}
    (h : turnOf kind source action ahead rs = true) :
    ∃ before r rest, rs = before ++ r :: rest ∧ r.names kind source action = true ∧
      ∀ q ∈ before ++ ahead, q.madeAt = r.madeAt ∧ requesterOf q.kind q.source ≠ requesterOf r.kind r.source := by
  induction rs generalizing ahead with
  | nil => simp [turnOf] at h
  | cons r rest ih =>
    by_cases hn : r.names kind source action = true
    · refine ⟨[], r, rest, rfl, hn, ?_⟩
      simp only [turnOf, hn, if_true, List.all_eq_true] at h
      intro q hq
      have := h q (by simpa using hq)
      simpa using this
    · simp only [turnOf, hn, if_false, Bool.false_eq_true] at h
      obtain ⟨before, r', rest', he, hr, ha⟩ := ih h
      refine ⟨r :: before, r', rest', by rw [he]; rfl, hr, fun q hq => ha q ?_⟩
      simp only [List.cons_append, List.mem_cons, List.mem_append] at hq ⊢
      rcases hq with rfl | hq | hq <;> simp [*]

/-- A request that already waits is not made again; one that does not is made now. -/
theorem State.ensureRequest_cases (kind : FaultKind) (source : Source) (action : FaultAction) (s : State) :
    s.ensureRequest kind source action = s ∨
      s.ensureRequest kind source action = s.request kind source action := by
  unfold State.ensureRequest
  split
  · exact .inl rfl
  · exact .inr rfl

/-- What asking the fault table to take a request does: the request goes on waiting, or it is taken. -/
theorem State.takeRequest_cases (kind : FaultKind) (source : Source) (action : FaultAction) (s : State) :
    s.takeRequest kind source action = s.ensureRequest kind source action ∨
      turnOf kind source action [] (s.ensureRequest kind source action).requests = true ∧
      s.takeRequest kind source action =
        State.takeAction kind source action
          { (s.ensureRequest kind source action).beginTake with
            requests := dropRequest kind source action (s.ensureRequest kind source action).requests } := by
  unfold State.takeRequest
  dsimp only
  split
  · next h =>
    refine .inr ⟨h, ?_⟩
    simp [State.beginTake]
  · exact .inl rfl

/-- The request that has waited longest is taken when the table is free, and occupies it for 1 µs (R166). -/
theorem State.takeRequest_front {kind : FaultKind} {source : Source} {action : FaultAction} {made : Nat}
    {rest : List Request} {s : State} (h : s.requests = ⟨made, kind, source, action⟩ :: rest) :
    s.takeRequest kind source action =
      State.takeAction kind source action
        { s.arriveAt s.faults.freeAt with
          requests := rest
          faults := { s.faults with freeAt := (s.arriveAt s.faults.freeAt).timeBase + 1 } } := by
  have waits : s.ensureRequest kind source action = s := by simp [State.ensureRequest, h, Request.names]
  unfold State.takeRequest
  rw [waits]
  dsimp only
  rw [if_pos (by simp [h, turnOf, Request.names])]
  simp [State.beginTake, State.setFaults, h, dropRequest, Request.names]

end Sys2Proof.Machine
end

