-- ==== Sys2Proof/Laws/Chains.lean ====
section
/-! SUPPORT. What the operations on chains, tile marks and the deferred record do (R118, R119, R130, R144, R151, R196). -/

namespace Sys2Proof.Machine

open Sys2Proof

/-! ### The deferred record -/

/-- The deferred record after an outcome (R196). -/
def Deferred.resolved (words : Option DetailWords) (d : Deferred) : Deferred :=
  { d with
    state := match words with
      | some w => .ready w
      | none => .failed
    readyAge := 0 }

/-- Everything that an outcome can do: it resolves the WAITING record, or there is none and nothing changes. -/
theorem State.detailOutcome_cases (words : Option DetailWords) (s : State) :
    (∃ d, s.responder.deferred = some d ∧ d.state = .waiting ∧
      s.detailOutcome words = s.setDeferred (some (d.resolved words))) ∨
    ((∀ d, s.responder.deferred = some d → d.state ≠ .waiting) ∧ s.detailOutcome words = s) := by
  unfold State.detailOutcome
  cases hd : s.responder.deferred with
  | none => exact .inr ⟨by simp, rfl⟩
  | some d =>
    by_cases hw : d.state = .waiting
    · exact .inl ⟨d, rfl, hw, by simp only [hw, if_true]; rfl⟩
    · exact .inr ⟨by simpa using hw, by simp [hw]⟩

/-- An outcome changes the responder at most. -/
theorem State.detailOutcome_eq (words : Option DetailWords) (s : State) :
    s.detailOutcome words = { s with responder := (s.detailOutcome words).responder } := by
  rcases State.detailOutcome_cases words s with ⟨d, -, -, h⟩ | ⟨-, h⟩
  · rw [h]; rfl
  · rw [h]

@[simp] theorem State.detailOutcome_timeBase (w) (s : State) : (s.detailOutcome w).timeBase = s.timeBase := by
  rw [State.detailOutcome_eq]
@[simp] theorem State.detailOutcome_startUp (w) (s : State) : (s.detailOutcome w).startUp = s.startUp := by
  rw [State.detailOutcome_eq]
@[simp] theorem State.detailOutcome_line (w) (s : State) : (s.detailOutcome w).line = s.line := by
  rw [State.detailOutcome_eq]
@[simp] theorem State.detailOutcome_wire (w) (s : State) : (s.detailOutcome w).wire = s.wire := by
  rw [State.detailOutcome_eq]
@[simp] theorem State.detailOutcome_chains (w) (s : State) : (s.detailOutcome w).chains = s.chains := by
  rw [State.detailOutcome_eq]
@[simp] theorem State.detailOutcome_collector (w) (s : State) : (s.detailOutcome w).collector = s.collector := by
  rw [State.detailOutcome_eq]
@[simp] theorem State.detailOutcome_requests (w) (s : State) : (s.detailOutcome w).requests = s.requests := by
  rw [State.detailOutcome_eq]
@[simp] theorem State.detailOutcome_options (w) (s : State) : (s.detailOutcome w).options = s.options := by
  simp [State.options]
@[simp] theorem State.detailOutcome_used (w) (s : State) (c : Fin 4) : (s.detailOutcome w).used c = s.used c := by
  simp [State.used]
@[simp] theorem State.detailOutcome_marked (w) (s : State) (c : Fin 4) (p : Nat) :
    (s.detailOutcome w).marked c p = s.marked c p := by
  simp [State.marked, State.tileAt]

/-! ### Starting an operation -/

/-- Everything that starting can do (R119): an IDLE chain starts its highest pending request, a DOWN one its census; a detail of
an absent position fails back; otherwise nothing happens. -/
theorem State.startHighest_cases (c : Fin 4) (s : State) :
    s.startHighest c = s ∨
    (((s.chains.get c).state = .idle ∨ (s.chains.get c).state = .down) ∧ (s.chains.get c).pend.census = true ∧
      s.startHighest c = s.setChain c (s.chains.get c).startCensus) ∨
    ((s.chains.get c).state = .idle ∧ (s.chains.get c).pend.census = false ∧
      ((((s.chains.get c).pend.brightness = true ∧
          s.startHighest c = s.setChain c (s.chains.get c).startBrightness)) ∨
        ((s.chains.get c).pend.brightness = false ∧ (s.chains.get c).pend.detail = true ∧
          ((s.marked c (s.chains.get c).pendingPosition = true ∧
              s.startHighest c = s.setChain c (s.chains.get c).startDetail) ∨
            (s.marked c (s.chains.get c).pendingPosition = false ∧
              s.startHighest c = (s.setChain c (s.chains.get c).clearDetail).detailOutcome none))) ∨
        ((s.chains.get c).pend.brightness = false ∧ (s.chains.get c).pend.detail = false ∧
          (((s.chains.get c).pend.sweep = true ∧ s.startHighest c = s.setChain c (s.chains.get c).startSweep) ∨
            ((s.chains.get c).pend.sweep = false ∧ (s.chains.get c).pend.test = true ∧
              s.startHighest c = s.setChain c (s.chains.get c).startTest))))) := by
  unfold State.startHighest State.startDetail
  dsimp only
  cases hs : (s.chains.get c).state <;> simp only [reduceCtorEq, false_or, or_false, false_and, true_and]
  · cases hc : (s.chains.get c).pend.census <;> simp
    cases hb : (s.chains.get c).pend.brightness <;> simp
    cases hd : (s.chains.get c).pend.detail <;> simp
    · cases hw : (s.chains.get c).pend.sweep <;> simp
      cases ht : (s.chains.get c).pend.test <;> simp
    · cases hm : s.marked c (s.chains.get c).pendingPosition <;> simp
  · cases hc : (s.chains.get c).pend.census <;> simp

/-! ### Tile marks -/

/-- A mark changes the tile's record and may add the collector's withdrawals to the requests (R144). -/
theorem State.markTile_cases (i : Fin 64) (present : Bool) (s : State) :
    ((s.collector.tiles.get i).marked = present ∧ s.markTile i present = s) ∨
    (present = true ∧ (s.collector.tiles.get i).marked = false ∧
      s.markTile i present = s.setTile i { TileRecord.reset with marked := true }) ∨
    (present = false ∧ (s.collector.tiles.get i).marked = true ∧
      s.markTile i present = (s.setTile i TileRecord.reset).requestAll
        ((s.collector.tiles.get i).reported.kinds.map fun k => (k, BitVec.ofNat 6 i.val, FaultAction.withdraw))) := by
  unfold State.markTile
  dsimp only
  cases hm : (s.collector.tiles.get i).marked <;> cases present <;> simp

/-- A mark leaves the tile marked as it says. -/
theorem State.markTile_marks (i : Fin 64) (present : Bool) (s : State) :
    ((s.markTile i present).collector.tiles.get i).marked = present := by
  rcases State.markTile_cases i present s with ⟨h, e⟩ | ⟨h, -, e⟩ | ⟨h, -, e⟩ <;> rw [e]
  · exact h
  · simp [h]
  · simp [h, TileRecord.reset]

/-- A mark leaves every other tile record as it was. -/
theorem State.markTile_other {i j : Fin 64} (h : j ≠ i) (present : Bool) (s : State) :
    (s.markTile i present).collector.tiles.get j = s.collector.tiles.get j := by
  rcases State.markTile_cases i present s with ⟨-, e⟩ | ⟨-, -, e⟩ | ⟨-, -, e⟩ <;> rw [e] <;>
    simp [Table.get_set_other _ _ h]

/-- A mark changes only the tile records and the requests. -/
theorem State.markTile_eq (i : Fin 64) (present : Bool) (s : State) :
    s.markTile i present =
      { s with
        collector := { s.collector with tiles := (s.markTile i present).collector.tiles }
        requests := (s.markTile i present).requests } := by
  rcases State.markTile_cases i present s with ⟨-, e⟩ | ⟨-, -, e⟩ | ⟨-, -, e⟩ <;> rw [e]
  · rfl
  · rw [State.requestAll_eq]; rfl

/-- A chain's tile indices belong to no other chain and no other position (R114). -/
theorem tileIndex_inj {c d : Fin 4} {p q : Fin 16} : tileIndex c p = tileIndex d q ↔ c = d ∧ p = q := by
  simp only [tileIndex, Fin.ext_iff]
  omega

/-- Marking a chain changes only the tile records and the requests. -/
theorem State.markChain_eq (c : Fin 4) (n : Nat) (s : State) :
    s.markChain c n =
      { s with
        collector := { s.collector with tiles := (s.markChain c n).collector.tiles }
        requests := (s.markChain c n).requests } := by
  unfold State.markChain
  generalize List.finRange 16 = ps
  induction ps generalizing s with
  | nil => rfl
  | cons p rest ih =>
    rw [List.foldl_cons, ih, State.markTile_eq]

@[simp] theorem State.markChain_timeBase (c : Fin 4) (n : Nat) (s : State) :
    (s.markChain c n).timeBase = s.timeBase := by
  rw [State.markChain_eq]
@[simp] theorem State.markChain_pwmCount (c : Fin 4) (n : Nat) (s : State) :
    (s.markChain c n).pwmCount = s.pwmCount := by
  rw [State.markChain_eq]
@[simp] theorem State.markChain_startUp (c : Fin 4) (n : Nat) (s : State) :
    (s.markChain c n).startUp = s.startUp := by
  rw [State.markChain_eq]
@[simp] theorem State.markChain_sensors (c : Fin 4) (n : Nat) (s : State) :
    (s.markChain c n).sensors = s.sensors := by
  rw [State.markChain_eq]
@[simp] theorem State.markChain_line (c : Fin 4) (n : Nat) (s : State) :
    (s.markChain c n).line = s.line := by
  rw [State.markChain_eq]
@[simp] theorem State.markChain_wire (c : Fin 4) (n : Nat) (s : State) :
    (s.markChain c n).wire = s.wire := by
  rw [State.markChain_eq]
@[simp] theorem State.markChain_neighbours (c : Fin 4) (n : Nat) (s : State) :
    (s.markChain c n).neighbours = s.neighbours := by
  rw [State.markChain_eq]
@[simp] theorem State.markChain_settling (c : Fin 4) (n : Nat) (s : State) :
    (s.markChain c n).settling = s.settling := by
  rw [State.markChain_eq]
@[simp] theorem State.markChain_cap (c : Fin 4) (n : Nat) (s : State) :
    (s.markChain c n).cap = s.cap := by
  rw [State.markChain_eq]
@[simp] theorem State.markChain_chains (c : Fin 4) (n : Nat) (s : State) :
    (s.markChain c n).chains = s.chains := by
  rw [State.markChain_eq]
@[simp] theorem State.markChain_ports (c : Fin 4) (n : Nat) (s : State) :
    (s.markChain c n).ports = s.ports := by
  rw [State.markChain_eq]
@[simp] theorem State.markChain_scanner (c : Fin 4) (n : Nat) (s : State) :
    (s.markChain c n).scanner = s.scanner := by
  rw [State.markChain_eq]
@[simp] theorem State.markChain_faults (c : Fin 4) (n : Nat) (s : State) :
    (s.markChain c n).faults = s.faults := by
  rw [State.markChain_eq]
@[simp] theorem State.markChain_responder (c : Fin 4) (n : Nat) (s : State) :
    (s.markChain c n).responder = s.responder := by
  rw [State.markChain_eq]
@[simp] theorem State.markChain_pending (c : Fin 4) (n : Nat) (s : State) :
    (s.markChain c n).pending = s.pending := by
  rw [State.markChain_eq]

/-- A tile record after a mark: as it was when it is so marked already, and otherwise as after reset but for the mark (R144). -/
def TileRecord.afterMark (present : Bool) (t : TileRecord) : TileRecord :=
  if t.marked = present then t else { TileRecord.reset with marked := present }

/-- The withdraws that a mark of a tile gives: those of its reported conditions, when it was present and is marked absent (R144). -/
def TileRecord.markRequests (i : Fin 64) (present : Bool) (t : TileRecord) : List (FaultKind × Source × FaultAction) :=
  if t.marked && !present then t.reported.kinds.map fun k => (k, BitVec.ofNat 6 i.val, FaultAction.withdraw) else []

/-- What a mark does to the tile's record and to the requests. -/
theorem State.markTile_does (i : Fin 64) (present : Bool) (s : State) :
    (s.markTile i present).collector.tiles.get i = (s.collector.tiles.get i).afterMark present ∧
      (s.markTile i present).requests =
        s.requests ++ ((s.collector.tiles.get i).markRequests i present).map (Request.made s.timeBase) := by
  rcases State.markTile_cases i present s with ⟨h, e⟩ | ⟨rfl, h, e⟩ | ⟨rfl, h, e⟩ <;> rw [e]
  · simp [TileRecord.afterMark, TileRecord.markRequests, h]
  · simp [TileRecord.afterMark, TileRecord.markRequests, h]
  · simp [TileRecord.afterMark, TileRecord.markRequests, h, TileRecord.reset]

/-- What marking a chain does: each of its positions takes its mark, the other chains' tiles stay as they were, and the withdraws
of the tiles that become absent are made in ascending order of position (R144; log entry 14). -/
theorem State.markChain_does (c : Fin 4) (n : Nat) (s : State) :
    (∀ d q, (s.markChain c n).collector.tiles.get (tileIndex d q) =
      if d = c then (s.collector.tiles.get (tileIndex d q)).afterMark (q.val < n)
      else s.collector.tiles.get (tileIndex d q)) ∧
    (s.markChain c n).requests = s.requests ++ ((List.finRange 16).flatMap fun p =>
      ((s.collector.tiles.get (tileIndex c p)).markRequests (tileIndex c p) (p.val < n)).map
        (Request.made s.timeBase)) := by
  have key : ∀ (ps : List (Fin 16)) (t : State), ps.Nodup →
      (∀ d q, (ps.foldl (fun t p => t.markTile (tileIndex c p) (p.val < n)) t).collector.tiles.get (tileIndex d q) =
        if d = c ∧ q ∈ ps then (t.collector.tiles.get (tileIndex d q)).afterMark (q.val < n)
        else t.collector.tiles.get (tileIndex d q)) ∧
      (ps.foldl (fun t p => t.markTile (tileIndex c p) (p.val < n)) t).requests =
        t.requests ++ (ps.flatMap fun p =>
          ((t.collector.tiles.get (tileIndex c p)).markRequests (tileIndex c p) (p.val < n)).map
            (Request.made t.timeBase)) := by
    intro ps
    induction ps with
    | nil => intro t _; simp
    | cons p rest ih =>
      intro t nd
      obtain ⟨hp, nr⟩ := List.nodup_cons.mp nd
      obtain ⟨mine, asked⟩ := State.markTile_does (tileIndex c p) (p.val < n) t
      have now : (t.markTile (tileIndex c p) (p.val < n)).timeBase = t.timeBase := by rw [State.markTile_eq]
      obtain ⟨tiles, reqs⟩ := ih (t.markTile (tileIndex c p) (p.val < n)) nr
      have same : ∀ d q, (d ≠ c ∨ q ≠ p) → (t.markTile (tileIndex c p) (p.val < n)).collector.tiles.get (tileIndex d q) =
          t.collector.tiles.get (tileIndex d q) := fun d q h =>
        State.markTile_other (fun e => by rcases tileIndex_inj.mp e with ⟨rfl, rfl⟩; simp at h) _ _
      refine ⟨fun d q => ?_, ?_⟩
      · rw [List.foldl_cons, tiles d q]
        by_cases hd : d = c
        · subst hd
          by_cases hq : q = p
          · subst hq; simp [hp, mine]
          · simp [hq, same d q (.inr hq)]
        · simp [hd, same d q (.inl hd)]
      · rw [List.foldl_cons, reqs, asked, List.flatMap_cons, ← List.append_assoc, now]
        congr 1
        refine List.flatMap_congr fun q hq => ?_
        rw [same c q (.inr fun e => hp (e ▸ hq))]
  have := key (List.finRange 16) s (List.nodup_finRange 16)
  simpa [State.markChain] using this

/-- Marking a chain leaves its first `n` positions present, its others absent, and the other chains' tiles as they were. -/
theorem State.markChain_marks (c : Fin 4) (n : Nat) (s : State) (d : Fin 4) (q : Fin 16) :
    ((s.markChain c n).collector.tiles.get (tileIndex d q)).marked =
      if d = c then decide (q.val < n) else (s.collector.tiles.get (tileIndex d q)).marked := by
  rw [(State.markChain_does c n s).1 d q]
  split
  · unfold TileRecord.afterMark
    split <;> simp_all
  · rfl

/-- A sweep-end report leaves every mark as it was (R151). -/
theorem State.sweepReport_marked (c : Fin 4) (entered : List Nat) (s : State) (i : Fin 64) :
    ((s.sweepReport c entered).collector.tiles.get i).marked = (s.collector.tiles.get i).marked := by
  simp only [State.sweepReport, Table.get_mapWithIndex]
  split
  · unfold TileRecord.missed
    split <;> rfl
  · rfl

end Sys2Proof.Machine
end

