-- ==== Sys2Proof/Laws/FaultRecords.lean ====
section
/-! SUPPORT. What a raise and a withdraw do to the fault table (R167 to R175). -/

namespace Sys2Proof.Machine

open Sys2Proof

/-- Everything that a raise can do: it changes the record it finds, it creates one, it evicts one for the new one, or it is not
recorded and sets the overflow flag. -/
theorem FaultTable.raise_cases (kind : FaultKind) (source : Source) (detail : Option Detail) (t : FaultTable) :
    (∃ r ∈ t.records, r.isFor kind source = true ∧
      t.raise kind source detail =
        (t.withRecords (updateRecord kind source (raisedRecord detail) t.records),
          if r.state = .cleared then some (raisedRecord detail r) else none)) ∨
    ((∀ r ∈ t.records, r.isFor kind source = false) ∧
      ((t.records.length < Config.faultPlaces ∧
          t.raise kind source detail =
            (t.withRecords (t.records ++ [newRecord kind source detail]), some (newRecord kind source detail))) ∨
        (Config.faultPlaces ≤ t.records.length ∧
          ((∃ i, evictionPlace (faultSeverity kind) t.records = some i ∧
              t.raise kind source detail =
                (t.withRecords (t.records.eraseIdx i ++ [newRecord kind source detail]),
                  some (newRecord kind source detail))) ∨
            (evictionPlace (faultSeverity kind) t.records = none ∧
              t.raise kind source detail = ({ t with overflow := true }, none)))))) := by
  unfold FaultTable.raise
  dsimp only
  split
  · next r h =>
    exact .inl ⟨r, List.mem_of_find?_eq_some h, List.find?_some (p := fun r : FaultRecord => r.isFor kind source) h, rfl⟩
  · next h =>
    refine .inr ⟨fun r hr => by simpa using List.find?_eq_none.mp h r hr, ?_⟩
    split
    · next hl => exact .inl ⟨hl, rfl⟩
    · next hl =>
      refine .inr ⟨Nat.le_of_not_lt hl, ?_⟩
      split
      · next i hi => exact .inl ⟨i, hi, rfl⟩
      · next hi => exact .inr ⟨hi, rfl⟩

/-- Everything that a withdraw can do: it clears the ACTIVE record it finds, or nothing (R170). -/
theorem FaultTable.withdraw_cases (kind : FaultKind) (source : Source) (t : FaultTable) :
    (∃ r ∈ t.records, r.isFor kind source = true ∧ r.state = .active ∧
      t.withdraw kind source =
        (t.withRecords (updateRecord kind source
          (fun q => if q.state = .active then clearedRecord q else q) t.records), some (clearedRecord r))) ∨
    ((∀ r ∈ t.records, ¬(r.isFor kind source = true ∧ r.state = .active)) ∧ t.withdraw kind source = (t, none)) := by
  unfold FaultTable.withdraw
  split
  · next r h =>
    have := List.find?_some (p := fun r : FaultRecord => r.isFor kind source && decide (r.state = .active)) h
    simp only [Bool.and_eq_true, decide_eq_true_eq] at this
    exact .inl ⟨r, List.mem_of_find?_eq_some h, this.1, this.2, rfl⟩
  · next h =>
    refine .inr ⟨fun r hr hn => List.find?_eq_none.mp h r hr ?_, rfl⟩
    simp [hn.1, hn.2]

@[simp] theorem updateRecord_length (kind : FaultKind) (source : Source) (f : FaultRecord → FaultRecord)
    (rs : List FaultRecord) : (updateRecord kind source f rs).length = rs.length := List.length_map _

@[simp] theorem raisedRecord_kind (d : Option Detail) (r : FaultRecord) : (raisedRecord d r).kind = r.kind := by
  unfold raisedRecord; split <;> rfl
@[simp] theorem raisedRecord_source (d : Option Detail) (r : FaultRecord) : (raisedRecord d r).source = r.source := by
  unfold raisedRecord; split <;> rfl
@[simp] theorem raisedRecord_state (d : Option Detail) (r : FaultRecord) : (raisedRecord d r).state = .active := by
  unfold raisedRecord; split <;> simp_all
@[simp] theorem raisedRecord_detail (d : Option Detail) (r : FaultRecord) : (raisedRecord d r).detail = d := by
  unfold raisedRecord; split <;> rfl

/-- The table with records changed or replaced keeps its flag, its interval and its free count. -/
@[simp] theorem FaultTable.withRecords_records (t : FaultTable) (rs) : (t.withRecords rs).records = rs := rfl
@[simp] theorem FaultTable.withRecords_overflow (t : FaultTable) (rs) :
    (t.withRecords rs).overflow = t.overflow := rfl
@[simp] theorem FaultTable.withRecords_output (t : FaultTable) (rs) : (t.withRecords rs).output = outputOf rs := rfl
@[simp] theorem FaultTable.withRecords_agingDue (t : FaultTable) (rs) :
    (t.withRecords rs).agingDue = t.agingDue := rfl
@[simp] theorem FaultTable.withRecords_freeAt (t : FaultTable) (rs) : (t.withRecords rs).freeAt = t.freeAt := rfl

/-- A take of an action changes the fault table and offers at most one notice; nothing else (R166, R178). -/
theorem State.takeAction_cases (kind : FaultKind) (source : Source) (action : FaultAction) (s : State) :
    ∃ table line, State.takeAction kind source action s = { s with faults := table, line := line } ∧
      (line = s.line ∨ ∃ f : Frame, f.kind = .faultNotice ∧ f.urgency ≠ .routine ∧ f.payload.length ≤ 7 ∧
        f.sender = s.ownAddress ∧ line = s.line.offer f) := by
  have notice : ∀ (event : NoticeEvent) (out : FaultTable × Option FaultRecord),
      ∃ table line, State.offerNotice event out.2 (s.setFaults out.1) = { s with faults := table, line := line } ∧
        (line = s.line ∨ ∃ f : Frame, f.kind = .faultNotice ∧ f.urgency ≠ .routine ∧ f.payload.length ≤ 7 ∧
          f.sender = s.ownAddress ∧ line = s.line.offer f) := by
    intro event out
    obtain ⟨table, r⟩ := out
    cases r with
    | none => exact ⟨table, s.line, rfl, .inl rfl⟩
    | some r =>
      refine ⟨table, s.line.offer (s.notice event r), rfl, .inr ⟨s.notice event r, rfl, ?_, ?_, rfl, rfl⟩⟩
      · simp only [State.notice, noticeUrgency]
        split <;> simp
      · simp only [State.notice, noticePayload, List.length_append]
        cases r.detail <;> simp [twoOctets]
  cases action with
  | raise detail => exact notice _ _
  | withdraw => exact notice _ _

end Sys2Proof.Machine
end

