-- ==== Sys2Proof/Laws/Frames.lean ====
section
/-! SUPPORT. Frames and how they combine: what each shared operation leaves as it was. -/

namespace Sys2Proof.Machine

open Sys2Proof

/-! ### Frames combine -/

theorem Keeps.refl {l : List Part} {s : State} : Keeps l s s := fun p _ => by cases p <;> rfl

theorem Keeps.trans {l : List Part} {s t u : State} (h : Keeps l s t) (k : Keeps l t u) : Keeps l s u := by
  intro p hp
  have a := h p hp
  have b := k p hp
  cases p <;> simp_all [Part.agrees]

/-- A frame holds with more parts let go. -/
theorem Keeps.mono {l m : List Part} {s t : State} (h : Keeps l s t) (k : ∀ p ∈ l, p ∈ m) : Keeps m s t :=
  fun p hp => h p fun x => hp (k p x)

/-- What each operation of a list keeps, the operations one after another keep. -/
theorem Keeps.foldl {α : Type} {l : List Part} {f : State → α → State} (hf : ∀ s a, Keeps l s (f s a)) (xs : List α)
    (s : State) : Keeps l s (xs.foldl f s) := by
  induction xs generalizing s with
  | nil => exact Keeps.refl
  | cons x rest ih => exact Keeps.trans (hf s x) (ih _)

/-! ### The shared operations -/

theorem keeps_setLine (x : LineControl) (s : State) : Keeps [.line] s (s.setLine x) := by
  intro p hp; cases p <;> simp_all [Part.agrees]

theorem keeps_setWire (x : LineSamples) (s : State) : Keeps [.wire] s (s.setWire x) := by
  intro p hp; cases p <;> simp_all [Part.agrees]

theorem keeps_setChain (c : Fin 4) (x : Chain) (s : State) : Keeps [.chains] s (s.setChain c x) := by
  intro p hp; cases p <;> simp_all [Part.agrees]

theorem keeps_setDeferred (x : Option Deferred) (s : State) : Keeps [.responder] s (s.setDeferred x) := by
  intro p hp; cases p <;> simp_all [Part.agrees]

theorem keeps_request (kind : FaultKind) (source : Source) (action : FaultAction) (s : State) :
    Keeps [.requests] s (s.request kind source action) := by
  intro p hp; cases p <;> simp_all [Part.agrees]

theorem keeps_requestAll (rs : List (FaultKind × Source × FaultAction)) (s : State) :
    Keeps [.requests] s (s.requestAll rs) := by
  intro p hp; cases p <;> simp_all [Part.agrees]

theorem keeps_offerFrame (f : Frame) (s : State) : Keeps [.line] s (s.offerFrame f) := by
  intro p hp; cases p <;> simp_all [Part.agrees]

theorem keeps_detailOutcome (words : Option DetailWords) (s : State) :
    Keeps [.responder] s (s.detailOutcome words) := by
  rw [State.detailOutcome_eq]
  intro p hp; cases p <;> simp_all [Part.agrees]

theorem keeps_postDetail (c : Fin 4) (position : Nat) (s : State) :
    Keeps [.chains, .responder] s (s.postDetail c position) := by
  unfold State.postDetail
  split
  · exact (keeps_detailOutcome _ _).mono (by simp)
  · exact (keeps_setChain _ _ _).mono (by simp)

theorem keeps_startHighest (c : Fin 4) (s : State) : Keeps [.chains, .responder] s (s.startHighest c) := by
  rcases State.startHighest_cases c s with h | ⟨-, -, h⟩ | ⟨-, -, ⟨-, h⟩ | ⟨-, -, ⟨-, h⟩ | ⟨-, h⟩⟩ |
    ⟨-, -, ⟨-, h⟩ | ⟨-, -, h⟩⟩⟩ <;> rw [h]
  · exact Keeps.refl
  · exact (keeps_setChain _ _ _).mono (by simp)
  · exact (keeps_setChain _ _ _).mono (by simp)
  · exact (keeps_setChain _ _ _).mono (by simp)
  · exact ((keeps_setChain _ _ _).mono (by simp)).trans ((keeps_detailOutcome _ _).mono (by simp))
  · exact (keeps_setChain _ _ _).mono (by simp)
  · exact (keeps_setChain _ _ _).mono (by simp)

theorem keeps_markChain (c : Fin 4) (n : Nat) (s : State) : Keeps [.collector, .requests] s (s.markChain c n) := by
  rw [State.markChain_eq]
  intro p hp; cases p <;> simp_all [Part.agrees]

theorem keeps_sweepReport (c : Fin 4) (entered : List Nat) (s : State) :
    Keeps [.collector] s (s.sweepReport c entered) := by
  intro p hp; cases p <;> simp_all [Part.agrees, State.sweepReport]

theorem keeps_arriveWith (w : LineSamples) (s : State) : Keeps [.wire] (s.arriveAt w.sampledAt) (s.arriveWith w) :=
  keeps_setWire _ _

theorem keeps_countGood (s : State) : Keeps [.line] s s.countGood := keeps_setLine _ s

theorem keeps_clash (kind : BitVec 4) (s : State) : Keeps [.line, .requests] s (s.clash kind) :=
  ((keeps_setLine _ s).mono (by simp)).trans ((keeps_request _ _ _ _).mono (by simp))

theorem keeps_reply (q : Query) (status : ReplyStatus) (data : List Octet) (s : State) :
    Keeps [.line] s (s.reply q status data) := keeps_offerFrame _ _

theorem keeps_takeAction (kind : FaultKind) (source : Source) (action : FaultAction) (s : State) :
    Keeps [.faults, .line] s (State.takeAction kind source action s) := by
  obtain ⟨table, line, h, -⟩ := State.takeAction_cases kind source action s
  rw [h]
  intro p hp; cases p <;> simp_all [Part.agrees]

/-- A frame heard keeps what counting it, holding it back and handing it on keep, after some time has passed. -/
theorem keeps_hear {l : List Part} (octets : List Octet) (kind : BitVec 4) (sender : Addr) {take : State → State} (s : State)
    (hl : Part.line ∈ l) (hw : Part.wire ∈ l) (hr : Part.requests ∈ l) (ht : ∀ t, Keeps l t (take t)) :
    ∃ n, Keeps l (s.passHalves n) (s.hear octets kind sender take) := by
  rcases State.hear_cases octets kind sender take s with ⟨-, h⟩ | ⟨w, -, h⟩
  · exact ⟨0, by rw [h, State.passHalves_zero]; exact Keeps.refl⟩
  · refine ⟨_, (((keeps_arriveWith w s).mono (m := l) (by simp [hw])).trans
      ((keeps_countGood (s.arriveWith w)).mono (by simp [hl]))).trans ?_⟩
    rcases h with ⟨-, -, h⟩ | ⟨-, h⟩ <;> rw [h]
    · exact (keeps_clash _ _).mono (by simp [hl, hr])
    · exact ht _

/-- A query heard keeps what its answer keeps, but for the line controller, its samples and the requests. -/
theorem keeps_hearQuery {l : List Part} (q : Query) {respond : State → State} (s : State) (hl : Part.line ∈ l)
    (hw : Part.wire ∈ l) (hr : Part.requests ∈ l) (ht : ∀ t, Keeps l t (respond t)) :
    ∃ n, Keeps l (s.passHalves n) (s.hearQuery q respond) := by
  refine keeps_hear _ _ _ _ hl hw hr fun t => ?_
  split
  · exact ht t
  · exact Keeps.refl

/-- A bit reached: some time has passed, and one chain stands at the bit. -/
theorem keeps_reachBit (c : Fin 4) (k : Nat) (s : State) :
    Keeps [.chains] (s.passHalves (k - (s.chains.get c).bitCount)) (s.reachBit c k) := keeps_setChain _ _ _

/-! ### Tile marks -/

/-- The withdraws of marking a chain, in the terms of the claims (R144; log entry 14). -/
theorem State.markChain_requests (c : Fin 4) (n : Nat) (s : State) :
    (s.markChain c n).requests = s.requests ++ (absenceWithdraws s c n).map (Request.made s.timeBase) := by
  rw [(State.markChain_does c n s).2, absenceWithdraws, List.map_flatMap]
  congr 1
  refine List.flatMap_congr fun p _ => congrArg _ ?_
  have absent : (!decide (p.val < n)) = decide (n ≤ p.val) := by simp [← decide_not]
  have index : (tileIndex c p).val = 16 * c.val + p.val := by simp [tileIndex, Nat.mul_comm]
  simp only [TileRecord.markRequests, absent, index]
  split
  · generalize s.collector.tiles.get (tileIndex c p) = t
    rcases t with ⟨-, -, -, -, ⟨a, b, d, e, f⟩⟩
    cases a <;> cases b <;> cases d <;> cases e <;> cases f <;> rfl
  · rfl

end Sys2Proof.Machine
end

