-- ==== Sys2Proof/Laws/Line.lean ====
section
/-! SUPPORT. Where a mismatch of the own frame falls (R36, R37), and what a discard and the end of a frame leave of the line (R41,
R42). -/

namespace Sys2Proof.Machine

open Sys2Proof

/-- The first number below `n` with a property is one such that no smaller one has it. -/
theorem find?_range_eq_some {p : Nat → Bool} {n k : Nat} :
    (List.range n).find? p = some k ↔ k < n ∧ p k = true ∧ ∀ j, j < k → p j = false := by
  rw [List.find?_range_eq_some]
  simp [and_left_comm]

/-- Everything that the search for a mismatch can find: the first bit, not before the present count, that can so mismatch. -/
theorem State.nextBit_eq_some {kind : LineControl → Nat → Bool} {s : State} {k : Nat} :
    s.nextBit kind = some k ↔
      k < s.line.sentLevels.length ∧ (s.timeBase ≤ s.bitMiddle k ∧ kind s.line k = true) ∧
        ∀ j, j < k → kind s.line j = true → s.bitMiddle j < s.timeBase := by
  unfold State.nextBit
  rw [find?_range_eq_some]
  simp only [Bool.and_eq_true, decide_eq_true_eq, Bool.and_eq_false_imp]
  refine and_congr Iff.rfl (and_congr Iff.rfl (forall_congr' fun j => forall_congr' fun _ => ?_))
  constructor
  · intro h hk
    by_contra hn
    exact absurd (h (Nat.not_lt.mp hn)) (by simp [hk])
  · intro h hn
    by_contra hk
    exact absurd (h (by simpa using hk)) (Nat.not_lt.mpr hn)

/-- It finds none when every bit that can so mismatch has gone by. -/
theorem State.nextBit_eq_none {kind : LineControl → Nat → Bool} {s : State} :
    s.nextBit kind = none ↔
      ∀ k, k < s.line.sentLevels.length → kind s.line k = true → s.bitMiddle k < s.timeBase := by
  unfold State.nextBit
  simp only [List.find?_eq_none, List.mem_range, Bool.and_eq_true, decide_eq_true_eq, not_and, Bool.not_eq_true]
  refine forall_congr' fun k => forall_congr' fun _ => ?_
  constructor
  · intro h hk
    by_contra hn
    exact absurd (h (Nat.not_lt.mp hn)) (by simp [hk])
  · intro h hn
    by_contra hk
    exact absurd (h (by simpa using hk)) (Nat.not_lt.mpr hn)

/-- A mismatch that can be a loss falls at a data bit of the key, sent recessive, and is no bit error (R36, R37). -/
theorem LineControl.losable_iff (l : LineControl) (k : Nat) :
    l.losable k = true ↔ ((1 ≤ k ∧ k ≤ 8) ∨ (11 ≤ k ∧ k ≤ 18)) ∧ l.sentLevels[k]? = some .recessive := by
  simp [LineControl.losable, keyDataBit]

/-- Every other mismatch is a bit error (R37). -/
theorem LineControl.errable_iff (l : LineControl) (k : Nat) :
    l.errable k = true ↔ k < l.sentLevels.length ∧ l.losable k = false := by
  simp [LineControl.errable]

@[simp] theorem State.misread_line (k : Nat) (level : Level) (s : State) : (s.misread k level).line = s.line := rfl
@[simp] theorem State.misread_wire (k : Nat) (level : Level) (s : State) :
    (s.misread k level).wire = s.ownRead (s.line.sentLevels.take k ++ [level]) := rfl
@[simp] theorem State.misread_timeBase (k : Nat) (level : Level) (s : State) :
    (s.misread k level).timeBase = s.timeBase := rfl
@[simp] theorem State.misread_requests (k : Nat) (level : Level) (s : State) :
    (s.misread k level).requests = s.requests := rfl

/-- Everything that a discard can do: nothing where the frame does not so end; and otherwise time passes until its last sample, the
frame is counted bad, and the assembler takes no further characters (R41, R42). -/
theorem State.discard_cases (cause : DiscardCause) (s : State) :
    (s.lineAtDiscard cause = none ∧ s.discard cause = s) ∨
    ∃ w, s.lineAtDiscard cause = some w ∧ w.assembler = .ignoring ∧
      s.discard cause = (s.arriveWith w).setLine s.line.countBad := by
  unfold State.discard
  have ignores : ∀ levels finish ends quiet w, s.lineAfterBad levels finish ends quiet = some w → w.assembler = .ignoring := by
    intro levels finish ends quiet w h
    unfold State.lineAfterBad at h
    obtain ⟨v, -, h⟩ := Option.bind_eq_some_iff.mp h
    split at h
    · cases h; rfl
    · cases h
  cases h : s.lineAtDiscard cause with
  | none => exact .inl ⟨rfl, rfl⟩
  | some w =>
    refine .inr ⟨w, rfl, ?_, rfl⟩
    cases cause with
    | framingError octets => exact ignores _ _ _ _ _ h
    | badLength octets => exact ignores _ _ _ _ _ h
    | idleBeforeComplete octets => exact ignores _ _ _ _ _ h
    | badCheck octets =>
      simp only [State.lineAtDiscard] at h
      split at h
      · cases h
      · exact ignores _ _ _ _ _ h

end Sys2Proof.Machine
end

