-- ==== Sys2Proof/Laws/PerInstr.lean ====
section
/-! SUPPORT. A statement about every row of the table, made row by row: a command may change the parts of the state that the
manual gives it, and never the queue of the commands that wait. -/

namespace Sys2Proof.Laws

open Sys2Proof Sys2Proof.Machine

/-- The queue is not among the parts that a command may change. -/
def EachRow.Statement (i : Instr) : Prop := Part.pending ∉ changes i

theorem EachRow.of_contains {i : Instr} (h : (changes i).contains .pending = false) : EachRow.Statement i := by
  simpa [EachRow.Statement] using h

theorem EachRow.resetAssert (source : ResetSource) :
    EachRow.Statement (.resetAssert source) :=
  EachRow.of_contains rfl
theorem EachRow.resetEnd (straps : Addr) :
    EachRow.Statement (.resetEnd straps) :=
  EachRow.of_contains rfl
theorem EachRow.readAttempt (response : Option (Fin 8)) :
    EachRow.Statement (.readAttempt response) :=
  EachRow.of_contains rfl
theorem EachRow.readOutcome (octets : List Octet) :
    EachRow.Statement (.readOutcome octets) :=
  EachRow.of_contains rfl
theorem EachRow.settlingWaitExpiry :
    EachRow.Statement (.settlingWaitExpiry) :=
  EachRow.of_contains rfl
theorem EachRow.sensorEdge (channel : Fin 2) (stamp : Nat) :
    EachRow.Statement (.sensorEdge channel stamp) :=
  EachRow.of_contains rfl
theorem EachRow.gateWindowEnd (channel : Fin 2) :
    EachRow.Statement (.gateWindowEnd channel) :=
  EachRow.of_contains rfl
theorem EachRow.lineIdle :
    EachRow.Statement (.lineIdle) :=
  EachRow.of_contains rfl
theorem EachRow.stuckDominant :
    EachRow.Statement (.stuckDominant) :=
  EachRow.of_contains rfl
theorem EachRow.frameStart :
    EachRow.Statement (.frameStart) :=
  EachRow.of_contains rfl
theorem EachRow.arbitrationLoss :
    EachRow.Statement (.arbitrationLoss) :=
  EachRow.of_contains rfl
theorem EachRow.bitError :
    EachRow.Statement (.bitError) :=
  EachRow.of_contains rfl
theorem EachRow.frameSent :
    EachRow.Statement (.frameSent) :=
  EachRow.of_contains rfl
theorem EachRow.frameDiscard (cause : DiscardCause) :
    EachRow.Statement (.frameDiscard cause) :=
  EachRow.of_contains rfl
theorem EachRow.frameReceived (kind : FrameClass) (sender : Addr) (payload : List Octet) :
    EachRow.Statement (.frameReceived kind sender payload) :=
  EachRow.of_contains rfl
theorem EachRow.clashQuietExpiry :
    EachRow.Statement (.clashQuietExpiry) :=
  EachRow.of_contains rfl
theorem EachRow.beaconReceived (sender : Addr) (beacon : BeaconWire) :
    EachRow.Statement (.beaconReceived sender beacon) :=
  EachRow.of_contains rfl
theorem EachRow.capSetting (sender : Addr) (cap : CapWire) (duration : BitVec 16) :
    EachRow.Statement (.capSetting sender cap duration) :=
  EachRow.of_contains rfl
theorem EachRow.capCancel (sender : Addr) (cap : CapWire) :
    EachRow.Statement (.capCancel sender cap) :=
  EachRow.of_contains rfl
theorem EachRow.queryBadItem (asker : Addr) (target : BitVec 16) (item argument tag : Octet) :
    EachRow.Statement (.queryBadItem asker target item argument tag) :=
  EachRow.of_contains rfl
theorem EachRow.faults (asker : Addr) (target : BitVec 16) (argument tag : Octet) :
    EachRow.Statement (.faults asker target argument tag) :=
  EachRow.of_contains rfl
theorem EachRow.tile (asker : Addr) (target : BitVec 16) (argument tag : Octet) :
    EachRow.Statement (.tile asker target argument tag) :=
  EachRow.of_contains rfl
theorem EachRow.tileDetail (asker : Addr) (target : BitVec 16) (argument tag : Octet) :
    EachRow.Statement (.tileDetail asker target argument tag) :=
  EachRow.of_contains rfl
theorem EachRow.view (asker : Addr) (target : BitVec 16) (argument tag : Octet) :
    EachRow.Statement (.view asker target argument tag) :=
  EachRow.of_contains rfl
theorem EachRow.levels (asker : Addr) (target : BitVec 16) (argument tag : Octet) :
    EachRow.Statement (.levels asker target argument tag) :=
  EachRow.of_contains rfl
theorem EachRow.chain (asker : Addr) (target : BitVec 16) (argument tag : Octet) :
    EachRow.Statement (.chain asker target argument tag) :=
  EachRow.of_contains rfl
theorem EachRow.line (asker : Addr) (target : BitVec 16) (argument tag : Octet) :
    EachRow.Statement (.line asker target argument tag) :=
  EachRow.of_contains rfl
theorem EachRow.beaconBuild :
    EachRow.Statement (.beaconBuild) :=
  EachRow.of_contains rfl
theorem EachRow.neighbourAging :
    EachRow.Statement (.neighbourAging) :=
  EachRow.of_contains rfl
theorem EachRow.capCountdown :
    EachRow.Statement (.capCountdown) :=
  EachRow.of_contains rfl
theorem EachRow.settlingPass :
    EachRow.Statement (.settlingPass) :=
  EachRow.of_contains rfl
theorem EachRow.operationStart (chain : Fin 4) :
    EachRow.Statement (.operationStart chain) :=
  EachRow.of_contains rfl
theorem EachRow.censusComplete (chain : Fin 4) (lead : Nat) :
    EachRow.Statement (.censusComplete chain lead) :=
  EachRow.of_contains rfl
theorem EachRow.censusUnusable (chain : Fin 4) (straightBack : Bool) :
    EachRow.Statement (.censusUnusable chain straightBack) :=
  EachRow.of_contains rfl
theorem EachRow.brightnessComplete (chain : Fin 4) (lead : Nat) (echo : BitVec 32) :
    EachRow.Statement (.brightnessComplete chain lead echo) :=
  EachRow.of_contains rfl
theorem EachRow.statusWordComplete (chain : Fin 4) (lead : Nat) (word : BitVec 32) :
    EachRow.Statement (.statusWordComplete chain lead word) :=
  EachRow.of_contains rfl
theorem EachRow.sweepComplete (chain : Fin 4) :
    EachRow.Statement (.sweepComplete chain) :=
  EachRow.of_contains rfl
theorem EachRow.detailComplete (chain : Fin 4) (lead : Nat) (echo : BitVec 32) (words : DetailWords) :
    EachRow.Statement (.detailComplete chain lead echo words) :=
  EachRow.of_contains rfl
theorem EachRow.testComplete (chain : Fin 4) (lead : Nat) (returned : BitVec 254) :
    EachRow.Statement (.testComplete chain lead returned) :=
  EachRow.of_contains rfl
theorem EachRow.operationTimeout (chain : Fin 4) :
    EachRow.Statement (.operationTimeout chain) :=
  EachRow.of_contains rfl
theorem EachRow.sweepPeriodExpiry (chain : Fin 4) :
    EachRow.Statement (.sweepPeriodExpiry chain) :=
  EachRow.of_contains rfl
theorem EachRow.testPeriodExpiry (chain : Fin 4) :
    EachRow.Statement (.testPeriodExpiry chain) :=
  EachRow.of_contains rfl
theorem EachRow.censusRetryExpiry (chain : Fin 4) :
    EachRow.Statement (.censusRetryExpiry chain) :=
  EachRow.of_contains rfl
theorem EachRow.pwmPeriodStart (port : Fin 4) :
    EachRow.Statement (.pwmPeriodStart port) :=
  EachRow.of_contains rfl
theorem EachRow.pwmOnTimeEnd (port : Fin 4) :
    EachRow.Statement (.pwmOnTimeEnd port) :=
  EachRow.of_contains rfl
theorem EachRow.collectorTake :
    EachRow.Statement (.collectorTake) :=
  EachRow.of_contains rfl
theorem EachRow.faultRaise (kind : FaultKind) (source : Source) (detail : Option Detail) :
    EachRow.Statement (.faultRaise kind source detail) :=
  EachRow.of_contains rfl
theorem EachRow.faultWithdraw (kind : FaultKind) (source : Source) :
    EachRow.Statement (.faultWithdraw kind source) :=
  EachRow.of_contains rfl
theorem EachRow.faultClearedAging :
    EachRow.Statement (.faultClearedAging) :=
  EachRow.of_contains rfl
theorem EachRow.deferredReadyAging :
    EachRow.Statement (.deferredReadyAging) :=
  EachRow.of_contains rfl
theorem EachRow.supplyScan :
    EachRow.Statement (.supplyScan) :=
  EachRow.of_contains rfl
theorem EachRow.conversionComplete (sample : BitVec 10) :
    EachRow.Statement (.conversionComplete sample) :=
  EachRow.of_contains rfl
theorem EachRow.lineLeavesIdle :
    EachRow.Statement (.lineLeavesIdle) :=
  EachRow.of_contains rfl

end Sys2Proof.Laws
end

