-- ==== Sys2Proof/Laws/StartUp.lean ====
section
/-! SUPPORT. What the configuration memory port shows of an attempt to read the option block (R202, R211). -/

namespace Sys2Proof.Machine

open Sys2Proof

/-- Everything that the port can show: an attempt in progress and how many of its bit times have begun, or nothing. -/
theorem State.attemptBit_eq_some {s : State} {k : Nat} :
    s.attemptBit = some k ↔ ∃ t, s.startUp.attemptBegan = some t ∧ s.startUp.phase = .reading ∧
      s.timeBase < t + attemptLength s.startUp.answered ∧ k = s.timeBase - t := by
  unfold State.attemptBit
  cases s.startUp.attemptBegan with
  | none => simp
  | some t =>
    by_cases h : s.startUp.phase = .reading ∧ s.timeBase < t + attemptLength s.startUp.answered
    · simp [h, eq_comm]
    · have : ¬((decide (s.startUp.phase = .reading) && decide (s.timeBase < t + attemptLength s.startUp.answered)) = true) := by
        simpa using h
      simp only [this, if_false, reduceCtorEq, Option.some.injEq, false_iff]
      rintro ⟨u, rfl, a, b, -⟩
      exact h ⟨a, b⟩

/-- Select is asserted exactly while an attempt is in progress. -/
theorem State.memorySelect_iff {s : State} :
    s.memorySelect = true ↔ ∃ t, s.startUp.attemptBegan = some t ∧ s.startUp.phase = .reading ∧
      s.timeBase < t + attemptLength s.startUp.answered := by
  unfold State.memorySelect
  rw [Option.isSome_iff_exists]
  constructor
  · rintro ⟨k, h⟩
    obtain ⟨t, a, b, c, -⟩ := State.attemptBit_eq_some.mp h
    exact ⟨t, a, b, c⟩
  · rintro ⟨t, a, b, c⟩
    exact ⟨_, State.attemptBit_eq_some.mpr ⟨t, a, b, c, rfl⟩⟩

/-- The port is idle in every phase but READING (R202). -/
theorem State.memorySelect_of_phase {s : State} (h : s.startUp.phase ≠ .reading) : s.memorySelect = false := by
  cases e : s.memorySelect
  · rfl
  · obtain ⟨-, -, a, -⟩ := State.memorySelect_iff.mp e
    exact absurd a h

end Sys2Proof.Machine
end

