-- ==== Sys2Proof/Tests/Slice0.lean ====
section
/-! SUPPORT. Tests of the model: ill-formed commands that the checks refuse, the worked values that the manual's chapters give,
single commands on a small state, and for every statement with hypotheses a named state and operands that meet them. Expected
values are the manual's own or follow from its rules by hand; the comment of a test names their source. -/

namespace Sys2Proof.Tests

open Sys2Proof Sys2Proof.Machine

/-! ### Ill-formed commands are refused -/

theorem test_wellformed_refuses_short_block : wellFormed (.readOutcome [0, 1]) = false := by decide
theorem test_wellformed_refuses_long_payload :
    wellFormed (.frameReceived ⟨3, 1⟩ 0 (List.replicate 25 0)) = false := by decide
theorem test_wellformed_refuses_length_that_is_good : 
    (wellFormed (.frameDiscard (.badLength [0, 0, 25])), wellFormed (.frameDiscard (.badLength [0, 0, 24]))) = (true, false) := by
  decide
theorem test_wellformed_refuses_framing_error_of_no_character : wellFormed (.frameDiscard (.framingError [])) = false := by
  decide
theorem test_wellformed_refuses_idle_after_complete_frame :
    wellFormed (.frameDiscard (.idleBeforeComplete [0, 0, 0, 255])) = false := by decide
theorem test_wellformed_refuses_bad_check_that_is_good : wellFormed (.frameDiscard (.badCheck [0, 0, 0, 255])) = false := by
  decide
theorem test_wellformed_refuses_setting_of_no_duration : wellFormed (.capSetting 1 ⟨0, 0, 0, 0⟩ 0) = false := by decide
theorem test_wellformed_refuses_bad_item_that_is_good : wellFormed (.queryBadItem 1 2 1 7 0) = false := by decide
theorem test_wellformed_refuses_page_eight : wellFormed (.faults 1 2 8 0) = false := by decide
theorem test_wellformed_refuses_tile_sixty_four : wellFormed (.tile 1 2 64 0) = false := by decide
theorem test_wellformed_refuses_detail_of_tile_sixty_four : wellFormed (.tileDetail 1 2 64 0) = false := by decide
theorem test_wellformed_refuses_slot_thirty_two : wellFormed (.view 1 2 32 0) = false := by decide
theorem test_wellformed_refuses_chain_four : wellFormed (.chain 1 2 4 0) = false := by decide
theorem test_wellformed_refuses_lead_at_zero : wellFormed (.censusComplete 0 0) = false := by decide
theorem test_wellformed_refuses_lead_at_sixty_five : wellFormed (.censusComplete 0 65) = false := by decide
theorem test_wellformed_refuses_source_of_raise : wellFormed (.faultRaise .chainDown 4 none) = false := by decide
theorem test_wellformed_refuses_source_of_withdraw : wellFormed (.faultWithdraw .lineStuck 1) = false := by decide
theorem test_wellformed_refuses_withdraw_of_defaults : wellFormed (.faultWithdraw .configDefaulted 0) = false := by
  decide

/-- The table gives no bits, so no word spells a command. -/
theorem test_no_word_decodes : (decodeTableWord 0 0, decodeTableWord 32 0xFFFFFFFF) = (none, none) := by decide

/-! ### The manual's worked values -/

/-- The examples of LOG32 in 1.3. -/
theorem test_log32_examples :
    [1, 3, 16, 33, 100, 1000, 20000, 400000, 524287].map log32 = [0, 50, 128, 161, 212, 318, 457, 594, 607] := by
  decide

/-- The examples of the ambient code: constant 659 at three periods, and constant 200 held at 0 (1.4). -/
theorem test_ambient_code_examples :
    (ambientCode 659 1000, ambientCode 659 20000, ambientCode 659 10, ambientCode 200 1000) = (341, 202, 531, 0) := by
  decide

/-- The window of 2.6: 127 edges over 99 200 µs have a mean period of 787 and the code 352. -/
theorem test_window_example : (meanPeriod 127 99200, ambientCode 659 787) = (787, 352) := by decide

/-- Two channels' codes averaged (2.6). -/
theorem test_average_example : averageCode (some 341) (some 352) = some 346 := by decide

/-- The duty words of 1.5 at Y_peak 416, and their on-times. -/
theorem test_duty_examples :
    ([416, 289, 278, 256].map (dutyWord 416), [3298, 3519].map onTimeOf) = ([65535, 4185, 3298, 2047], [206, 219]) := by
  decide

/-- Trims move the level and are held within 0 and Y_peak (1.5, R9). -/
theorem test_trim_examples :
    ([chainLuminance 416 278 3, chainLuminance 416 414 5, chainLuminance 416 4 (-7)].map (dutyWord 416)).take 2 =
      [3519, 65535] ∧ chainLuminance 416 4 (-7) = 0 := by
  decide

/-- The ends of the duty range (R14). -/
theorem test_duty_ends : (dutyWord 511 0, dutyWord 511 511) = (1, 65535) := by decide

/-- Row 1 and row 2 of the crossbar examples (7.1) are valid, and row 3 is not. -/
theorem test_crossbar_examples :
    (crossbarValid ⟨[16, 16, 0, 0], rfl⟩ id, crossbarValid ⟨[16, 16, 0, 0], rfl⟩ ![3, 2, 3, 3],
      crossbarValid ⟨[16, 16, 8, 0], rfl⟩ ![1, 1, 2, 0]) = (true, true, false) := by
  decide

/-- Counts read as four twenties (R207). -/
theorem test_counts_example : (cutToTotal 0 [20, 20, 20, 20]).map (fun n => min n 16) = [16, 16, 16, 4] := by decide

/-- Set B of the validation examples (4.1): windows 1 and 2 are disabled by R60 and R61. -/
theorem test_window_set_b :
    windowRaises ⟨true, 0x140, 0x3F0, 8⟩ ⟨true, 0x230, 0x3F0, 20⟩ ⟨true, 0x150, 0x3F8, 20⟩ = [(3, 1), (4, 2)] ∧
      translate (testedWindows ⟨true, 0x140, 0x3F0, 8⟩ ⟨true, 0x230, 0x3F0, 20⟩ ⟨true, 0x150, 0x3F8, 20⟩) 0x148 =
        some 16 := by
  decide

/-- Window 0 above slot 31 and no window that admits station 0, window 1 above slot 31: group order (R205, R209). -/
theorem test_raise_order :
    (appliedOf 0 (some (List.replicate 15 0 ++ [0x9F, 1, 0, 1, 0, 0x9F, 1, 0, 1, 0] ++ List.replicate 65 0 ++ [0xBD]))).raises.filter
      (fun r => 2 ≤ r.1 && r.1 ≤ 4) = [(2, 1), (2, 3), (3, 1)] := by
  decide

/-- Set C: window 0 fails R60 and is not earlier for R61. -/
theorem test_window_set_c :
    windowRaises ⟨true, 0x100, 0x300, 0⟩ ⟨true, 0x140, 0x3E0, 0⟩ ⟨true, 0x230, 0x3F8, 0⟩ = [(2, 1), (4, 2)] := by decide

/-- The key of a FAULT NOTICE of urgency NOTICE from station 0x107 (Chapter 3). -/
theorem test_key_example : (Frame.key ⟨.notice, 0x107, .faultNotice, []⟩).toNat = 36978 := by decide

/-- The gaps from 41 to 44 and from 44 to 0 (4.6). -/
theorem test_gap_examples : (sequenceGap 44 41, sequenceGap 0 44) = (2, 211) := by decide

/-- The pool of 5.11 has the median 346, whose ceiling is 289 on the built-in curve. -/
theorem test_pool_example :
    lowerMedian [346, 346, 500, 330, 338] = some 346 ∧ ceilingAt builtInCurve 346 = 289 := by decide

/-- Rows 2, 3 and 6 of the matching examples (6.1). -/
theorem test_cap_match_examples :
    (capMatches 0x148 ⟨0x140, 0x3F0, 0, 0⟩, capMatches 0x148 ⟨0x150, 0x3F0, 0, 0⟩,
      capMatches 0x3FF ⟨0x140, 0x3C0, 0, 0⟩) = (true, false, false) := by
  decide

/-- The TEST pattern begins with seven ones (R132), and returned whole it has no mismatch. -/
theorem test_pattern_begins : testPattern.take 8 = [true, true, true, true, true, true, true, false] := by decide

/-- A supply nominal of 800 at level 29 has threshold 725 and recovery level 750 (8.8). -/
theorem test_supply_levels_example : (supplyThreshold 800 29, recoveryLevel 800 29) = (725, 750) := by decide

/-! ### A small running station -/

/-- The values applied: two tiles on chain 0, one on chain 1, and a supply nominal of 800 on port 0. -/
def boardOptions : Options :=
  { defaultOptions with tileCounts := ⟨[2, 1, 0, 0], rfl⟩, nominals := ⟨[800, 0, 0, 0], rfl⟩ }

/-- A FRESH neighbour, 0x146. -/
def neighbourA : Neighbour :=
  { sender := 0x146, mode := .regulating, yOut := 300, ambient := some 346, cap := none, activeCount := 0
    severity := none, overflow := false, seq := 41, missed := 0, age := 2, freshness := .fresh }

/-- A chain at rest after a census of `n` tiles. -/
def restingChain (n : Nat) : Chain :=
  { Chain.reset with
    state := .idle, census := some n, duty := some 4185, pendingValue := 4185, sentValue := 4185
    sweepDue := some 6000000, testDue := some 60000000 }

/-- A present tile without readings. -/
def presentTile : TileRecord := { TileRecord.reset with marked := true }

/-- Station 0x148, running, five seconds after reset ended, its line idle, one neighbour in slot 6, chains 0 and 1 at rest. -/
def board : State :=
  { State.reset with
    timeBase := 5000000
    pwmCount := 1600
    startUp :=
      { phase := .running, sources := ⟨false, false, false⟩, startCause := .power, address := some 0x148, attempts := 0
        attemptBegan := none, answered := none, octets := [], applied := some boardOptions, waitEnd := none }
    sensors := Table.set (Table.replicate 2 SensorChannel.reset) 0
      { window := ⟨127, some 4900010, some 4999210⟩, early := [], lastCode := some 341, silent := 0, state := .valid
        windowEnd := some 5000100, latest := some (4999210, 1) }
    line := { LineControl.reset with beaconDue := some 5250000 }
    wire := ⟨12, 0, 4999990, none, false, true, false, .empty⟩
    neighbours :=
      { windows := testedWindows (defaultWindow 0x148) ViewWindow.disabled ViewWindow.disabled, ownSlot := some 8
        slots := Table.set (Table.replicate 32 none) 6 (some neighbourA), agingDue := some 5250000 }
    settling :=
      { Settling.reset with
        mode := .regulating, yOut := 286, heldCeiling := some 289, passes := 8, passDue := some 5250000
        stage := { StageRecord.starting 286 with mode := .regulating } }
    cap := ⟨some ⟨320, false, false, 240, 0x001⟩, some 5250000⟩
    chains := ⟨[restingChain 2, restingChain 1, Chain.reset, Chain.reset], rfl⟩
    ports := ⟨[{ Port.reset with supplyOn := true }, { Port.reset with supplyOn := true }, Port.reset, Port.reset], rfl⟩
    collector := { Collector.reset with
      tiles := ((Table.set (Table.replicate 64 TileRecord.reset) 0 presentTile).set 1 presentTile).set 16 presentTile }
    scanner := { Scanner.reset with scanDue := some 5250000 }
    faults := { FaultTable.reset with agingDue := some 5250000 }
    responder := ⟨none, some 5250000⟩
    pending := [.lineLeavesIdle] }

/-- The station with a frame of another station in assembly: its first start bit has been sampled. -/
def hearing : State := { board with wire := ⟨0, 1, 4999990, some 4999982, false, false, false, .within [] []⟩ }

/-- The station with chain 0 changed. -/
def onChain (f : Chain → Chain) : State := board.setChain 0 (f (restingChain 2))

/-- The station with chain 0 in an operation at bit time 10. -/
def inOperation (op : ChainState) : State := onChain fun ch => { ch with state := op, bitCount := 10 }

/-- The state after a command. -/
def after (c : Instr) (s : State) : State :=
  match exec c s with
  | .next t => t
  | _ => s

/-- A station that has read the first start bit of a frame, when it has read the rest of its characters. -/
def heardBy (s : State) (octets : List Octet) : State :=
  { s.arriveAt (s.wire.sampledAt + (10 * octets.length - 1) * s.bitTime) with
    wire := { s.wire.readOn s.bitTime (charactersLevels octets).tail with quiet := true, assembler := .empty } }

theorem hears_of_start {s : State} (running : s.running = true) (silent : s.line.sending = false) (wire : s.wire = hearing.wire)
    (first : Octet) (rest : List Octet) : s.Hears (first :: rest) (heardBy s (first :: rest)) :=
  ⟨running, silent, wire ▸ by decide, [.dominant], (charactersLevels (first :: rest)).tail, _, wire ▸ rfl, rfl, rfl, by
    rw [heardBy, ← charactersLevels_length, ← List.length_tail, ← LineSamples.readOn_sampledAt]
    rfl⟩

theorem query_heard {s : State} (running : s.running = true) (silent : s.line.sending = false) (wire : s.wire = hearing.wire)
    (q : Query) : s.Hears q.frameOctets (heardBy s q.frameOctets) :=
  hears_of_start running silent wire _ _

theorem hearing_hears (first : Octet) (rest : List Octet) : hearing.Hears (first :: rest) (heardBy hearing (first :: rest)) :=
  hears_of_start rfl rfl rfl first rest

/-- What comes of a good frame that the station hears whole. -/
theorem after_heard {c : Instr} {f : Frame} {kind : BitVec 4} {sender : Addr} {take : State → State}
    (h : exec c hearing = .next (hearing.hear f.octets kind sender take)) (few : f.payload.length ≤ Config.payloadMax) :
    after c hearing = (heardBy hearing f.octets).compare kind sender take := by
  have good := frameOctets_complete f.key few
  have hears : hearing.Hears f.octets (heardBy hearing f.octets) := hearing_hears _ _
  rw [after, h, State.hear_of_hears hears good.1 good.2]

/-! ### Single commands -/

/-- The reset detector: a second source during a reset leaves the cause, the power-on detector takes it (R199). -/
theorem test_reset_cause :
    let s := after (.resetAssert .pin) board
    (s.startUp.startCause, (after (.resetAssert .lowVoltage) s).startUp.startCause,
      (after (.resetAssert .power) s).startUp.startCause) = (.pin, .pin, .power) := by
  decide

/-- Straps 0x3FF make the station listen-only (R54, R201). -/
theorem test_reset_end_listen_only :
    (after (.resetEnd 0x3FF) State.reset).line.listenOnly = true ∧
      (after (.resetEnd 0x148) State.reset).line.listenOnly = false := by
  decide

/-- Reset ended on 0x0B7, and two attempts made without a response. -/
def reading : State :=
  { State.reset with
    startUp := { State.reset.startUp with
      phase := .reading, sources := ⟨false, false, false⟩, address := some 0x0B7, attempts := 2 } }

/-- The first attempt of a part whose memory answers in its first bit time: it begins at 0, its command bits are 0x03 and zeros, most
significant first, and select is released at bit time 753 (R202). -/
theorem test_attempt_answered :
    let t := after (.readAttempt (some 0)) { reading with startUp := { reading.startUp with attempts := 0 } }
    let at' (d : Nat) := ((t.passTime d).memorySelect, (t.passTime d).memoryData)
    (t.timeBase, t.startUp.attempts) = (0, 1) ∧
      [0, 5, 6, 7, 23, 24, 752, 753].map at' =
        [(true, some false), (true, some false), (true, some true), (true, some true), (true, some false), (true, none),
          (true, none), (false, none)] := by
  decide

/-- The third attempt without a response, and the defaults of 11.8: own slot 7 and CONFIG_DEFAULTED of group 0 with detail 1. -/
theorem test_no_response :
    let t := after (.readOutcome []) (after (.readAttempt none) reading)
    (t.timeBase, t.neighbours.ownSlot, t.requests) =
      (2032, some 7, [⟨2032, .configDefaulted, 0, .raise (some 1)⟩]) := by
  decide

/-- A memory that answers at once is read by 753 µs (11.8). -/
theorem test_read_time :
    (after (.readOutcome []) (after (.readAttempt (some 0))
      { reading with startUp := { reading.startUp with attempts := 0 } })).timeBase = 753 := by
  decide

/-- The release at the end of the wait: the first pass falls a quarter-second later and chain 0 starts its census (R210). -/
theorem test_release :
    let t := after .settlingWaitExpiry (after (.readOutcome []) (after (.readAttempt none) reading))
    (t.startUp.phase, t.timeBase, t.settling.passDue, (t.chains.get 0).state, (t.chains.get 1).state) =
      (.running, 22032, some 272032, .census, .off) := by
  decide

/-- An edge in the window and an edge of the next (R19). -/
theorem test_edges :
    let t := after (.sensorEdge 0 5000150) (after (.sensorEdge 0 5000040) board)
    ((t.sensors.get 0).window.count, (t.sensors.get 0).window.last, (t.sensors.get 0).early) =
      (128, some 5000040, [5000150]) := by
  decide

/-- 8 MHz sampling gives at most four edges to a microsecond: a fifth is none (R18). -/
theorem test_fifth_edge :
    let taken (n : Nat) := (List.replicate n (Instr.sensorEdge 0 5000040)).foldl (fun s c => after c s) board
    ((((taken 4).sensors.get 0).window.count, (taken 5).sensors.get 0) = (131, (taken 4).sensors.get 0)) := by
  decide

/-- The window of 127 edges over 99 200 µs gives 352 (2.6). -/
theorem test_window_end :
    ((after (.gateWindowEnd 0) board).sensors.get 0).lastCode = some 352 := by decide

/-- A stuck line is raised, and its return to idle withdraws it and clears the suspension (R39). -/
theorem test_stuck_line :
    let t := after .stuckDominant hearing
    (t.line.suspended, t.requests.map Request.action, (after .lineIdle t).line.suspended,
      (after .lineIdle t).requests.map Request.action) =
      (true, [.raise none], false, [.raise none, .withdraw]) := by
  decide

/-- A FAULT NOTICE to send. -/
def noticeFrame : Frame := { urgency := .notice, sender := 0x148, kind := .faultNotice, payload := [0, 0, 0, 0, 0] }

/-- The station with a frame in flight that it is driving. -/
def driving (aborts : Nat) : State :=
  { board with
    line := { board.line with flight := some ⟨noticeFrame, aborts⟩, sending := true, startedAt := 5000000 }
    wire := LineSamples.atStart 5000000 }

/-- Nine characters at 62.5 kbit/s end at the middle of the last stop bit, 1 440 − 8 µs after the start edge (R5, R35). -/
theorem test_frame_sent :
    let t := after .frameSent (driving 0)
    (t.timeBase, t.line.flight, t.line.counters.sent, t.line.cleanRun) = (5001432, none, 1, 1) := by
  decide

/-- Bits 0, 8 and 9 of the first character, key octet 0x94: its start bit, its last data bit and its stop bit (R32, R212). After the
frame the idle count rises by 1 every 16 µs, up to 12, and the line is idle from the
twelfth sample on, whose count it keeps (R33): 192 µs after the last stop bit. -/
theorem test_levels :
    let t := after .frameSent (driving 0)
    ((driving 0).drives, ((driving 0).passTime 128).drives, ((driving 0).passTime 144).drives,
      (t.passTime 16).wire.idleCount - t.wire.idleCount, (t.passTime 1600).wire.idleCount,
      (after .lineIdle (t.passTime 1600)).wire.idle) = (.dominant, .dominant, .recessive, 1, 12, true) := by
  decide

/-- A second abort keeps the frame and a third drops it with LINE_ERROR of the frame's kind (R37). -/
theorem test_aborts :
    ((after .bitError (driving 1)).line.flight, (after .bitError (driving 2)).line.flight,
      (after .bitError (driving 2)).requests.map Request.action) =
      (some ⟨noticeFrame, 2⟩, none, [.raise (some 2)]) := by
  decide

/-- A start bit that reads recessive is no start bit: the line stays idle and no character begins, though the edge times the samples;
the station drives to the end of that bit (R33, R37, R41). -/
theorem test_start_bit_error :
    let t := after .bitError (driving 0)
    (t.wire, (t.passTime 7).drives, (t.passTime 8).drives) =
      (⟨12, 0, 5000008, some 5000000, false, true, false, .empty⟩, .dominant, .recessive) := by
  decide

/-- An arbitration loss falls at bit 1 of key octet 0x94, its first data bit sent recessive, and keeps the frame and its abort count;
the station goes on receiving. After the key there is none (R36). -/
theorem test_loss :
    let t := after .arbitrationLoss (driving 1)
    let late := (driving 1).passTime 320
    (t.timeBase, t.line.flight, t.line.sending, t.line.counters.lost, t.wire.stuckCount, t.wire.assembler,
      (after .arbitrationLoss late).line.counters.lost) =
      (5000024, some ⟨noticeFrame, 1⟩, false, 1, 2, .within [] [.dominant], 0) := by
  decide

/-- A frame of four characters whose sum is not 255 is discarded at its last stop sample, 39 bit times after its first start bit's,
counted bad, and the rest of the line's characters ignored (R41, R42). -/
theorem test_discard :
    let t := after (.frameDiscard (.badCheck [0x94, 0x82, 0, 0])) hearing
    (t.timeBase, t.line.counters.bad, t.wire.assembler) = (4999990 + 39 * 16, 1, .ignoring) := by
  decide

/-- A dominant stop sample of the second character 0x82, whose last bit is 0, is a framing error; a command whose levels the samples read so far do not begin, and
one whose cause its characters do not give, are no discard (R41). -/
theorem test_framing_error :
    let t := after (.frameDiscard (.framingError [0x94, 0x82])) hearing
    let begun : State := { hearing with wire := { hearing.wire with assembler := .within [] [.dominant] } }
    (t.timeBase, t.wire.stuckCount, t.line.counters.bad, t.wire.assembler,
      (after (.frameDiscard (.badLength [0x94, 0x82, 25])) begun).line.counters.bad,
      (after (.frameDiscard (.badLength [0x94, 0x82, 24])) hearing).line.counters.bad) =
      (4999990 + 19 * 16, 2, 1, .ignoring, 0, 0) := by
  decide

/-- The data samples of the key character 0x94 and its stop sample give its octet, the length character the frame's end (R41). -/
theorem test_assembler :
    let read (cs : List Octet) (n : Nat) := (((charactersLevels cs).take n).foldl (fun a l => a.take l) (.between []) : Assembler)
    (read [0x94] 9, read [0x94] 10, read [0x94, 0x82, 24] 30, read [0x94, 0x82, 25] 30, read [0x94, 0x82, 0, 0xE9] 40) =
      (.within [] [.recessive, .dominant, .dominant, .recessive, .dominant, .recessive, .dominant, .dominant],
        .between [0x94], .between [0x94, 0x82, 24], .ended [0x94, 0x82, 25] .badLength,
        .ended [0x94, 0x82, 0, 0xE9] .complete) := by
  decide

/-- LINE_IDLE falls at the twelfth recessive sample, and at the count of that sample no further time passes (R33). -/
theorem test_line_idle :
    let eleven : State := { board with wire := ⟨11, 0, 4999990, none, false, false, false, .empty⟩ }
    let twelve : State := { board with timeBase := 5000006, wire := ⟨12, 0, 5000006, none, false, false, false, .empty⟩ }
    let seen (s : State) := ((after .lineIdle s).timeBase, (after .lineIdle s).wire.idleCount, (after .lineIdle s).wire.idle)
    (seen eleven, seen twelve) = ((5000006, 12, true), (5000006, 12, true)) := by
  decide

/-- STUCK_DOMINANT falls at the 65th dominant sample, and at the count of that sample no further time passes (R39). -/
theorem test_stuck_count :
    let run (n : Nat) : State := { hearing with
      timeBase := 5000000, wire := ⟨0, n, 5000000, some 4998968, false, false, false, .ignoring⟩ }
    let seen (s : State) := ((after .stuckDominant s).timeBase, (after .stuckDominant s).wire.stuckCount)
    (seen (run 64), seen (run 65)) = ((5000016, 65), (5000000, 65)) := by
  decide

/-- A good frame of four characters, 0xD4, 0x65, 0 and the check 0xC6, is counted at its last stop sample, before which a data bit is
dominant, and leaves the assembler empty (R33, R41, R42). -/
theorem test_frame_heard :
    let t := after (.frameReceived ⟨3, 5⟩ 0x146 []) hearing
    (t.timeBase, t.wire.idleCount, t.wire.assembler, t.line.counters.good) = (4999990 + 39 * 16, 1, .empty, 1) := by
  decide

/-- A frame under the station's own address raises ADDRESS_CLASH with its kind, at the last of its nine characters' samples, 89 bit times
after the first (R44). -/
theorem test_clash :
    let t := after (.frameReceived ⟨2, 2⟩ 0x148 [0, 1, 0, 1, 1]) hearing
    (t.line.clashEnd, t.requests.map Request.action) = (some 65001414, [.raise (some 2)]) := by
  decide

/-- The beacon of 0x146 with sequence 44 after 41: two were missed (4.6). -/
theorem test_beacon_gap :
    ((after (.beaconReceived 0x146 ⟨1, 262, 500, 0x3FF, 0, 0, 0, 44⟩) hearing).neighbours.slots.get 6).map
      (fun n => (n.yOut, n.ambient, n.missed, n.age)) = some (262, some 500, 2, 0) := by
  rw [after_heard rfl (by decide)]
  decide

/-- A CAP of 60 s has 240 quarter-seconds remaining (6.7), and one of duration 0 removes it (R106). -/
theorem test_caps :
    ((after (.capSetting 0x3C1 ⟨0x140, 0x3F0, 2, 100⟩ 60) hearing).cap.record,
      (after (.capCancel 0x3C1 ⟨0x148, 0x3FF, 0, 0⟩) hearing).cap.record) =
      (some ⟨100, false, true, 240, 0x3C1⟩, none) := by
  rw [after_heard rfl (by decide), after_heard rfl (by decide)]
  decide

/-- The cap counts down (R108). -/
theorem test_cap_countdown : (after .capCountdown board).cap.record.map CapRecord.remaining = some 239 := by decide

/-- The beacon is built at its slot, under the present sequence number (R55). -/
theorem test_beacon_built :
    let t := after .beaconBuild board
    (t.timeBase, t.line.seq, t.line.beaconDue, t.line.queue.map Frame.payload) =
      (5250000, 1, some 6250000, [[1, 1, 30, 1, 85, 1, 64, 0, 240, 0, 0, 0]]) := by
  decide

/-- A record ages by 1 and is STALE from age 13 on at a stale time of 3 s (R69, R70). -/
theorem test_aging :
    let old : State :=
      { board with neighbours := { board.neighbours with
          slots := board.neighbours.slots.set 6 (some { neighbourA with age := 12 }) } }
    ((after .neighbourAging old).neighbours.slots.get 6).map (fun n => (n.age, n.freshness)) = some (13, .stale) := by
  decide

/-- A neighbour of the worked pass. -/
def passNeighbour (yOut ambient : Nat) (freshness : Freshness) : Option Neighbour :=
  some { neighbourA with yOut := yOut, ambient := some ambient, freshness := freshness }

/-- The station of the worked pass (5.11), with the given freshness of slot 15. -/
def passBoard (nearest : Freshness) : State :=
  { board with
    startUp := { board.startUp with applied := some { boardOptions with
      tileCounts := ⟨[2, 1, 0, 0], rfl⟩, trims := ⟨[0, 3, 0, 0], rfl⟩, sensorCount := 2 } }
    sensors := ⟨[{ SensorChannel.reset with state := .valid, lastCode := some 341 },
      { SensorChannel.reset with state := .valid, lastCode := some 352 }], rfl⟩
    cap := ⟨none, some 5250000⟩
    neighbours := { board.neighbours with
      ownSlot := some 16
      slots := (((Table.set (Table.replicate 32 none) 14 (passNeighbour 262 500 .fresh)).set 15
        (passNeighbour 230 330 nearest)).set 17 (passNeighbour 300 338 .fresh)).set 18 (passNeighbour 250 200 .stale) } }

/-- The worked pass of 5.11. -/
theorem test_settling_pass :
    let t := after .settlingPass (passBoard .fresh)
    (t.settling.stage.aPool, t.settling.stage.yCeil, t.settling.stage.upstream, t.settling.stage.downstream) =
        (some 346, some 289, some 278, some 348) ∧
      (t.settling.yOut, (t.chains.get 0).duty, (t.chains.get 1).duty) = (278, some 3298, some 3519) := by
  decide

/-- Its variant with slot 15 STALE. -/
theorem test_settling_pass_stale :
    let t := after .settlingPass (passBoard .stale)
    (t.settling.stage.aPool, t.settling.stage.upstream, t.settling.stage.yTarget, t.settling.yOut) =
      (some 346, some 358, some 289, 288) := by
  decide

/-- CENSUS goes before BRIGHTNESS (R119). -/
theorem test_start_order :
    ((after (.operationStart 0) (onChain fun ch => { ch with pend := ⟨true, true, false, true, true⟩ })).chains.get 0).pend =
      ⟨false, true, false, true, true⟩ := by
  decide

/-- A port's select outputs are set for the operation that starts on it, and stand when it ends; chain 1 stands on port 1 (R114, R119). -/
theorem test_select_outputs :
    let t := after (.operationStart 1) (board.setChain 1 { restingChain 1 with pend := ⟨false, true, false, true, false⟩ })
    let u := after (.brightnessComplete 1 2 4185) t
    ((t.chains.get 1).selected, (u.chains.get 1).state, (u.chains.get 1).selected) = (some .brightness, .idle, some .brightness) ∧
      t.selectOutputs 1 = Config.selectLevels 1 (some 3) ∧ board.selectOutputs 3 = Config.selectLevels 3 none :=
  ⟨by decide, rfl, rfl⟩

/-- A census of 3 tiles against N_c = 2 raises TILE_COUNT with 3 and marks two tiles present (R124). -/
theorem test_census :
    let t := after (.censusComplete 0 3) { inOperation .census with collector := Collector.reset }
    (t.requests.map Request.action, t.marked 0 1, t.marked 0 2, (t.chains.get 0).census) =
      ([.raise (some 3), .withdraw, .withdraw], true, false, some 3) := by
  decide

/-- A tile with two conditions reported, marked absent, withdraws them in the order of R144. -/
theorem test_absent_tile :
    let worn : TileRecord := { presentTile with reported := ⟨true, false, false, true, true⟩ }
    (after (.censusComplete 0 1) ((inOperation .census).setTile 1 worn)).requests.drop 3 =
      [⟨5000000, .tileOpen, 1, .withdraw⟩, ⟨5000000, .thermalCrit, 1, .withdraw⟩, ⟨5000000, .thermalWarn, 1, .withdraw⟩] := by
  decide

/-- No lead bit by bit time 64: CHAIN_DOWN with 0xFFFF and the retry in 10 s (7.8). -/
theorem test_census_lost :
    let t := after (.censusUnusable 0 false) (inOperation .census)
    (t.timeBase, (t.chains.get 0).state, (t.chains.get 0).retryDue, t.requests.map Request.action, t.marked 0 0) =
      (5000027, .down, some 15000027, [.raise (some 0xFFFF)], false) := by
  decide

/-- The first differing echo posts the word again, the second raises CHAIN_INTEGRITY (7.8). -/
theorem test_echo :
    let t := after (.brightnessComplete 0 2 0) (inOperation .brightness)
    let u := after (.brightnessComplete 0 2 0) (onChain fun ch => { ch with state := .brightness, echoMiss := 1 })
    ((t.chains.get 0).pend.brightness, t.requests.map Request.kind, (u.chains.get 0).pend.brightness,
      u.requests.map Request.kind) = (true, [.chainTimeout], false, [.chainIntegrity, .chainTimeout]) := by
  decide

/-- Bit times are exact: a word of twelve tiles that completes at bit 429 and a timeout at bit 460 fall 214.5 and 230 µs after bit 0
(R2, R134). -/
theorem test_half_microseconds :
    let s := onChain fun ch => { ch with state := .sweep, census := some 12, wordsDone := 10, lead := some 77 }
    let t := after (.statusWordComplete 0 77 0) s
    (t.timeBase, t.half, (after (.operationTimeout 0) t).timeBase, (after (.operationTimeout 0) t).half) =
      (5000214, 1, 5000230, 0) := by
  decide

/-- A full FIFO, and the sweep of 7.8 at word 8. -/
def fullFifo : List StatusWord := (List.range 8).map fun p => ⟨p, 0⟩

/-- The sweep of twelve tiles of 7.8, when words 0 to 7 have entered. -/
def longSweep : State :=
  let s := onChain fun ch =>
    { ch with state := .sweep, census := some 12, wordsDone := 8, bitCount := 268, fifo := fullFifo }
  { s with collector := { s.collector with tiles := s.collector.tiles.set 8 presentTile } }

/-- Word 8 completes at running bit time 300 on a full FIFO and stops the shift clock; the collector's take frees it (7.8). -/
theorem test_stall :
    let t := after (.statusWordComplete 0 12 0) longSweep
    let u := after .collectorTake t
    ((t.chains.get 0).bitCount, (t.chains.get 0).stalled, (t.chains.get 0).register.map StatusWord.position,
      (u.chains.get 0).stalled, (u.chains.get 0).fifo.map StatusWord.position) =
      (300, true, some 8, false, [1, 2, 3, 4, 5, 6, 7, 8]) := by
  decide

/-- A sweep that ends without the word of tile 1 counts it (R151). -/
theorem test_sweep_end :
    let t := after (.sweepComplete 0) (onChain fun ch => { ch with state := .sweep, finalArrived := true, entered := [0] })
    ((t.collector.tiles.get 0).sweepsSince, (t.collector.tiles.get 1).sweepsSince, (t.chains.get 0).state) =
      (0, 1, .idle) := by
  decide

/-- A DETAIL times out at census count + 160 + 64 bits and fails back to its asker (10.5: 240 bits at a count of 16). -/
theorem test_detail_timeout :
    let s := onChain fun ch => { ch with state := .detail, census := some 16 }
    let t := after (.operationTimeout 0) { s with responder := ⟨some ⟨0x3C1, 5, .waiting, 0⟩, none⟩ }
    (t.timeBase, t.responder.deferred.map Deferred.state, t.requests.map Request.action) =
      (5000120, some .failed, [.raise (some 2)]) := by
  decide

/-- Port 1's period begins at count 1 024, and its line stays active for 261 counts (R8, R140): 16 µs after it began. -/
theorem test_pwm :
    let t := after (.pwmPeriodStart 1) { board with pwmCount := 0 }
    ((t.ports.get 1).onTime, (t.ports.get 1).lineActive, t.timeBase, (after (.pwmOnTimeEnd 1) t).timeBase,
      ((after (.pwmOnTimeEnd 1) t).ports.get 1).lineActive) = (261, true, 5000064, 5000080, false) := by
  decide

/-- A tile that has been warm: THERMAL_WARN stands and its warn-clear run is 1. -/
def warmTile : TileRecord :=
  { presentTile with warnClear := 1, reported := { ReportedSet.empty with thermalWarn := true } }

/-- The words of 8.8 at 6 s, reading 127, and at 18 s, reading 101: THERMAL_CRIT is raised, THERMAL_WARN withdrawn. -/
theorem test_thermal_words :
    (wordRequests defaultOptions ⟨0, 0, 127, true, true⟩ 21 warmTile,
      wordRequests defaultOptions ⟨0, 0, 101, true, true⟩ 21 warmTile,
      (warmTile.handled defaultOptions ⟨0, 0, 101, true, true⟩).warnClear) =
      ([(.thermalCrit, 21, .raise (some 127))], [(.thermalWarn, 21, .withdraw)], 2) := by
  decide

/-- A second sample below 725 raises SUPPLY_DROOP with it (8.8). -/
theorem test_droop :
    (after (.conversionComplete 710) { board with
      scanner := { board.scanner with queue := [0], records := Table.replicate 4 ⟨1, 0, false⟩ } }).requests.map
      Request.action = [.raise (some 710)] := by
  decide

/-- The full table of 9.9 before take D, but for the order of its tiles. -/
def fullTable : FaultTable :=
  FaultTable.reset.withRecords
    ([newRecord .configDefaulted 7 (some 1), newRecord .supplyDroop 0 (some 710)] ++
      (List.range 22).map fun n => newRecord .tileOpen (BitVec.ofNat 6 n) (some 1))

/-- Takes C and D of 9.9: TILE_OPEN is not recorded and sets the overflow flag; TILE_SHORT evicts CONFIG_DEFAULTED. -/
theorem test_full_table :
    let c := fullTable.raise .tileOpen 24 (some 3)
    let d := fullTable.raise .tileShort 5 (some 1)
    (c.1.overflow, c.2, d.1.overflow, d.1.records.length, d.1.records.head?.map FaultRecord.kind,
      d.1.records.getLast?.map FaultRecord.kind) =
      (true, none, false, 24, some .supplyDroop, some .tileShort) := by
  decide

/-- A take from the waiting requests, and the record it makes (R166, R167). -/
theorem test_raise_taken :
    let t := after (.faultRaise .chainDown 1 (some 0xFFFF))
      { board with requests := [⟨4999990, .chainDown, 1, .raise (some 0xFFFF)⟩] }
    (t.faults.records, t.faults.output, t.requests, t.line.queue.map Frame.payload) =
      ([newRecord .chainDown 1 (some 0xFFFF)], true, [], [[0, 16, 1, 2, 1, 255, 255]]) := by
  decide

/-- A first ask of TILE_DETAIL is DEFERRED and posts the detail, and another asker is BUSY (10.5). -/
theorem test_detail_protocol :
    let t := after (.tileDetail 0x3C1 0x148 1 7) hearing
    let u := after (.tileDetail 0x3C2 0x148 0 1) { t with line := hearing.line, wire := hearing.wire }
    ((t.chains.get 0).pend.detail, (t.chains.get 0).pendingPosition, t.line.queue.map Frame.payload,
      u.line.queue.map Frame.payload) =
      (true, 1, [[3, 193, 7, 3, 1, 1]], [[3, 194, 1, 3, 0, 2]]) := by
  decide

/-- VIEW of the own slot, of an empty one, and an argument out of range (R189, R214). -/
theorem test_view :
    ((after (.view 0x3C1 0x148 8 1) hearing).line.queue.map Frame.payload,
      (after (.view 0x3C1 0x148 9 1) hearing).line.queue.map Frame.payload,
      (after (.queryBadItem 0x3C1 0x148 4 32 1) hearing).line.queue.map Frame.payload) =
      ([[3, 193, 1, 4, 8, 0, 1]], [[3, 193, 1, 4, 9, 0, 0]], [[3, 193, 1, 4, 32, 3]]) := by
  decide

/-- The READY record is freed at its 32nd expiry (10.5). -/
theorem test_ready_aging :
    let s (age : Nat) : State := { board with responder := ⟨some ⟨0x3C2, 40, .failed, age⟩, some 5250000⟩ }
    ((after .deferredReadyAging (s 30)).responder.deferred.map Deferred.readyAge,
      (after .deferredReadyAging (s 31)).responder.deferred) = (some 31, none) := by
  decide

/-! ### States and operands that meet the hypotheses of each statement -/

theorem witness_FrontCommandRuns : board.pending = .lineLeavesIdle :: [] := rfl

theorem witness_TimePasses :
    let quiet : State := { board with wire := { board.wire with quiet := true } }
    State.reset.pending = [] ∧ State.reset.startUp.phase = .resetHeld ∧ reading.startUp.phase ≠ .resetHeld ∧
      reading.running = false ∧ board.running = true ∧
      ((driving 0).running = true ∧ (driving 0).line.sending = true ∧
        (driving 0).line.flight = some ⟨noticeFrame, 0⟩) ∧
      (quiet.running = true ∧ quiet.line.sending = false ∧ quiet.wire.quiet = true) ∧
      board.line.sending = false ∧ board.wire.quiet = false := by
  decide

theorem witness_CommandFrames : ∃ t, exec .lineLeavesIdle board = .next t := ⟨_, rfl⟩

theorem witness_StartUpValuesFixed : board.running = true ∧ ∃ t, exec .settlingPass board = .next t := ⟨rfl, _, rfl⟩

/-! #### Invariants: the running station has them, and its next step answers -/

theorem board_steps : ∃ t, step board = .next t := ⟨_, rfl⟩

/-- A station held in reset with a command waiting. -/
def heldBoard : State := State.held ⟨false, true, false⟩ .lowVoltage [.lineIdle]

theorem witness_StepKeepsResetState :
    heldBoard.startUp.phase = .resetHeld ∧ HeldIsReset heldBoard ∧ ∃ t, step heldBoard = .next t :=
  ⟨rfl, fun _ => rfl, _, rfl⟩

theorem board_options_in_range : boardOptions.InRange := by decide

theorem board_applied {o : Options} (h : board.startUp.applied = some o) : o = boardOptions :=
  (Option.some.inj h).symm

theorem board_applied_after_reading : AppliedAfterReading board := fun h => by
  rcases h with h | h <;> cases h

theorem witness_StepKeepsValuesSound : ValuesSound board ∧ ∃ t, step board = .next t :=
  ⟨⟨fun o h => board_applied h ▸ board_options_in_range, by decide, board_applied_after_reading,
    fun _ => by decide⟩, board_steps⟩

theorem board_faults_sound : board.faults.Sound := by
  refine ⟨?_, ?_, ?_, ?_, ?_⟩ <;> decide

theorem witness_StepKeepsFaultTableSound : board.faults.Sound ∧ ∃ t, step board = .next t :=
  ⟨board_faults_sound, board_steps⟩

theorem witness_StepKeepsLineSound : LineSound board ∧ ∃ t, step board = .next t :=
  ⟨⟨⟨by decide, fun f h => (by cases h), fun h => (by cases h), by decide, by decide, by decide⟩, by decide,
    fun h => (by cases h), fun h => (by cases h)⟩, board_steps⟩

theorem board_slot {i : Fin 32} {n : Neighbour} (h : board.neighbours.slots.get i = some n) : i = 6 ∧ n = neighbourA := by
  have all : ∀ j, board.neighbours.slots.get j = none ∨ j = 6 := by decide
  rcases all i with e | rfl
  · rw [e] at h; cases h
  · exact ⟨rfl, (Option.some.inj h).symm⟩

theorem witness_StepKeepsNeighboursSound : NeighboursSound board ∧ ∃ t, step board = .next t := by
  refine ⟨⟨fun o h => ?_, fun h => absurd rfl h, fun i n h => ?_⟩, board_steps⟩
  · rw [board_applied h]; decide
  · obtain ⟨rfl, rfl⟩ := board_slot h
    refine ⟨⟨by decide, fun a e => ?_, fun k e => (by cases e), by decide, by decide, by decide, by decide, by decide,
      by decide⟩, by decide, by decide⟩
    obtain rfl := Option.some.inj e
    decide

theorem witness_StepKeepsSettlingSound : SettlingSound board ∧ ∃ t, step board = .next t := by
  refine ⟨⟨fun o h => ?_, ⟨by decide, by decide, by decide, fun y e => ?_, fun h => (by cases h), rfl, rfl⟩,
    fun h => absurd rfl h⟩, board_steps⟩
  · rw [board_applied h]; decide
  · obtain rfl := Option.some.inj e
    decide

theorem reset_chain_sound : Chain.reset.Sound := by
  refine ⟨by decide, by decide, fun h => (by cases h), by decide, by decide, fun n h => (by cases h),
    fun n h => (by cases h), ⟨by decide, by decide, fun d h => (by cases h)⟩, by decide, fun h => absurd rfl h,
    ⟨fun h => (by cases h), fun op h => (by cases h)⟩, fun _ => by decide⟩

theorem resting_chain_sound {n : Nat} (h : n ≤ 64) : (restingChain n).Sound := by
  have value : 4185 ≤ 65535 := by decide
  refine ⟨Nat.zero_le _, ⟨fun e => (by cases e), fun e => absurd rfl e⟩, fun e => (by cases e), Nat.zero_le _,
    Nat.zero_le _, fun m e => ?_, fun m e => (by cases e), ⟨value, value, fun d e => ?_⟩, Nat.zero_le _,
    fun e => absurd rfl e, ⟨fun e => (by cases e), fun op e => (by cases e)⟩, fun e => (by cases e)⟩
  · obtain rfl := Option.some.inj e; exact h
  · obtain rfl := Option.some.inj e; decide

theorem witness_StepKeepsChainsSound : ChainsSound board ∧ ∃ t, step board = .next t := by
  refine ⟨⟨board_applied_after_reading, fun c => ?_⟩, board_steps⟩
  fin_cases c
  · exact ⟨resting_chain_sound (by decide), by decide⟩
  · exact ⟨resting_chain_sound (by decide), by decide⟩
  · exact ⟨reset_chain_sound, by decide⟩
  · exact ⟨reset_chain_sound, by decide⟩

theorem board_marked (c : Fin 4) (p : Nat) : board.marked c p = true ↔ (c = 0 ∧ p < 2) ∨ (c = 1 ∧ p < 1) := by
  have small : ∀ (d : Fin 4) (q : Fin 16),
      board.marked d q.val = true ↔ (d = 0 ∧ q.val < 2) ∨ (d = 1 ∧ q.val < 1) := by decide
  by_cases hp : p < 16
  · exact small c ⟨p, hp⟩
  · simp only [State.marked, State.tileAt, hp, dif_neg, not_false_eq_true]
    exact ⟨fun h => (by cases h), fun h => by omega⟩

theorem witness_StepKeepsTilesSound : TilesSound board ∧ ∃ t, step board = .next t := by
  refine ⟨⟨?_, by decide, fun h => absurd rfl h, fun c => ⟨fun p => ?_, fun h => ?_⟩⟩, board_steps⟩
  · have each : ∀ i : Fin 64, board.collector.tiles.get i = TileRecord.reset ∨
        board.collector.tiles.get i = presentTile := by decide
    intro i
    rcases each i with e | e <;> rw [e]
    · exact ⟨fun _ => rfl, by decide, by decide, fun r h => (by cases h)⟩
    · exact ⟨fun h => (by cases h), by decide, by decide, fun r h => (by cases h)⟩
  · have counts : ((board.chains.get 0).census, (board.chains.get 1).census, (board.chains.get 2).census,
        (board.chains.get 3).census) = (some 2, some 1, none, none) := by decide
    simp only [Prod.mk.injEq] at counts
    have tiles : ∀ d, board.options.tileCounts.get d = if d = 0 then 2 else if d = 1 then 1 else 0 := by decide
    rw [board_marked, tiles]
    fin_cases c <;> simp [counts]
  · have off : (board.chains.get c).census = none ∧ c ≠ 0 ∧ c ≠ 1 := by revert c; decide
    exact ⟨.inl off.1, fun p => by
      cases e : board.marked c p
      · rfl
      · rcases (board_marked c p).mp e with ⟨rfl, -⟩ | ⟨rfl, -⟩
        · exact absurd rfl off.2.1
        · exact absurd rfl off.2.2⟩

/-- A WAITING detail of tile 1, its request on chain 0. -/
def askedBoard : State :=
  { onChain (fun ch => { ch with pend := ⟨false, false, true, false, false⟩, pendingPosition := 1 }) with
    responder := ⟨some ⟨0x3C1, 1, .waiting, 0⟩, some 5250000⟩ }

theorem witness_StepKeepsDetailAccounted : DeferredSound askedBoard ∧ ∃ t, step askedBoard = .next t := by
  refine ⟨⟨fun h => absurd rfl h, fun d h => ?_, ?_⟩, _, rfl⟩
  · obtain rfl := Option.some.inj h
    exact ⟨by decide, by decide, fun _ => rfl⟩
  · show ∀ c : Fin 4, if (DeferredState.waiting = .waiting ∧ 1 / 16 = c.val) then
      (askedBoard.chains.get c).HasDetail (1 % 16) else (askedBoard.chains.get c).NoDetail
    decide

theorem witness_StepKeepsPortsSound : PortsSound board ∧ ∃ t, step board = .next t := by
  have duties : ∀ c : Fin 4, (board.chains.get c).duty = none ∨ (board.chains.get c).duty = some 4185 := by decide
  refine ⟨⟨board_applied_after_reading, by decide, fun c d h => ?_, fun p => ⟨?_, ?_, ?_⟩⟩, board_steps⟩
  · rcases duties c with e | e <;> rw [e] at h
    · cases h
    · obtain rfl := Option.some.inj h; decide
  · revert p; decide
  · revert p; decide
  · revert p; decide

theorem witness_StepKeepsRequestsInOrder : RequestsSound board ∧ ∃ t, step board = .next t :=
  ⟨⟨fun h => (by cases h), List.Pairwise.nil, fun r h => absurd h List.not_mem_nil⟩, board_steps⟩

theorem board_sensors_sound : SensorsSound board := by
  refine ⟨fun h => absurd rfl h, fun i => ?_⟩
  fin_cases i
  · refine ⟨by decide, fun a e => ?_, fun _ => by decide, by decide, by decide, fun a b e f => ?_,
      ⟨List.Pairwise.nil, fun _ => Nat.zero_le 4⟩, by decide, fun y h => absurd h List.not_mem_nil,
      fun b f => ?_, fun _ => by decide, fun h => absurd rfl h, fun _ a e => ?_⟩
    · obtain rfl := Option.some.inj e
      decide
    · obtain rfl := Option.some.inj e
      obtain rfl := Option.some.inj f
      decide
    · obtain rfl := Option.some.inj f
      decide
    · obtain rfl := Option.some.inj e
      decide
  · exact ⟨by decide, fun a e => (by cases e), fun e => (by cases e), by decide, by decide, fun a b e => (by cases e),
      ⟨List.Pairwise.nil, fun x => Nat.zero_le _⟩, rfl, rfl, rfl⟩

theorem board_cap_sound : CapSound board := fun r e => by
  obtain rfl := Option.some.inj e
  decide

theorem witness_StepKeepsSmallRecordsSound :
    (SensorsSound board ∧ ScannerSound board ∧ CapSound board) ∧ ∃ t, step board = .next t :=
  ⟨⟨board_sensors_sound, fun p => by revert p; decide, board_cap_sound⟩, board_steps⟩

/-! #### Arithmetic -/

theorem witness_LogIsAccurate : (1 ≤ 1 ∧ 1 ≤ 524287) ∧ (1 ≤ 524287 ∧ 524287 ≤ 524287 ∧ 1 ≤ 524287) := by decide

theorem witness_DutyWordRange :
    ({ defaultOptions with yPeak := 511 } : Options).yPeak ≤ 511 ∧ Mode.held ≠ .dark ∧ (0 ≤ 511 ∧ 511 ≤ 511) := by decide

theorem witness_CeilingFollowsCurve :
    ValidCurve builtInCurve ∧ builtInCurve.head? = some (0, 224) ∧ builtInCurve.getLast? = some (659, 409) ∧
      0 ≤ 0 ∧ 659 ≤ 659 ∧ 0 + 1 < builtInCurve.length ∧ 4 + 1 < builtInCurve.length ∧ (553 ≤ 553 ∧ 553 < 659) := by
  decide

/-- Inputs whose codes are ambient codes; inputs that give an empty pool at the ninth pass; and pools of no and one member. -/
theorem witness_PoolMedian :
    let i := board.passInputs
    let empty : PassInputs := { i with aOwn := none, slots := Table.replicate 32 none }
    (i.aOwn = some 341 ∧ 341 ≤ 671 ∧ ∀ n, (i.slots.get n).all (fun r => r.ambient.all (· ≤ 671)) = true) ∧
      poolList defaultOptions empty = [] ∧ 8 ≤ 8 ∧ darkCause empty = false ∧ ([] : List Nat) = [] ∧ [346] ≠ [] := by
  decide

/-- Searches that end at distance 1, and at distance R past a STALE record. -/
theorem witness_TargetAndSlew_bounds :
    let near := (passBoard .fresh).passInputs
    let far := (passBoard .stale).passInputs
    near.ownSlot = some 16 ∧ 1 ≤ defaultOptions.radius ∧
      (upstreamAt near.slots 16 1).any eligible = true ∧ (downstreamAt near.slots 16 1).any eligible = true ∧
      2 ≤ defaultOptions.radius ∧ (upstreamAt far.slots 16 1).any eligible = false ∧
      (upstreamAt far.slots 16 2).any eligible = true := by
  decide

/-- No record downstream of slot 8 within R; and no own slot. -/
theorem witness_TargetAndSlew_none :
    let i := board.passInputs
    i.ownSlot = some 8 ∧ downstreamAt i.slots 8 1 = none ∧ downstreamAt i.slots 8 2 = none ∧ defaultOptions.radius = 2 ∧
      ({ i with ownSlot := none } : PassInputs).ownSlot = none := by
  decide

/-- A cap of level 200 under IMMEDIATE lies below Y_out; a board at its target stays. -/
theorem witness_TargetAndSlew_slew :
    let o := (passBoard .fresh).options
    let i := (passBoard .fresh).passInputs
    let j : PassInputs := { i with cap := some ⟨200, false, true, 240, 0x3C1⟩ }
    let st := (passBoard .fresh).settling
    Mode.regulating ≠ .dark ∧ i.cap.any CapRecord.immediate = false ∧ j.cap.any CapRecord.immediate = true ∧
      target o j st .regulating ≤ st.yOut ∧ 1 ≤ o.slewUp ∧ 1 ≤ o.slewDown ∧
      nextOut o i { st with yOut := 278 } .regulating = 278 := by
  decide

/-! #### Frames, windows, the option block and the queue -/

theorem witness_FrameOctets : ({ noticeFrame with payload := List.replicate 24 0 } : Frame).payload.length ≤ 24 := by decide

theorem witness_BeaconHeardAsPublished :
    board.settling.yOut ≤ 511 ∧ SensorsSound board ∧ CapSound board ∧ board.faults.Sound ∧ board.line.seq < 256 :=
  ⟨by decide, board_sensors_sound, board_cap_sound, board_faults_sound, by decide⟩

theorem witness_NoSharedSlot :
    let ws := testedWindows ⟨true, 0x140, 0x3F0, 8⟩ ⟨true, 0x230, 0x3F8, 0⟩ ⟨true, 0x150, 0x3F8, 24⟩
    windowMatches (ws.get 0) 0x148 = true ∧ translate ws 0x148 = some 16 ∧ translate ws 0x157 = some 31 ∧
      (List.replicate 90 (0 : Octet) ++ [255]).length = 91 ∧ octetSum (List.replicate 90 0 ++ [255]) = 255 := by
  decide

theorem witness_NoSharedSlot_shares : ∃ shares : ViewWindow → ViewWindow → Prop, ∀ v w, shares v w ↔
    ∃ n, (v.offset ≤ n ∧ n ≤ slotEnd v) ∧ w.offset ≤ n ∧ n ≤ slotEnd w := ⟨_, fun _ _ => Iff.rfl⟩

/-- A block of zeros but for its check octet; one of the defaults' curve in which the first two breakpoints stand in disorder. -/
def zeroBlock : List Octet := List.replicate 90 0 ++ [255]

/-- Blocks whose check fails, and two that pass it: every count, code and curve field 0, and every octet 255 but the last. -/
theorem witness_AppliedValuesInRange :
    ((List.replicate 91 (0 : Octet)).length = 91 ∧ octetSum (List.replicate 91 0) ≠ 255) ∧
      (zeroBlock.length = 91 ∧ octetSum zeroBlock = 255) ∧
      ((List.replicate 90 (255 : Octet) ++ [89]).length = 91 ∧ octetSum (List.replicate 90 255 ++ [89]) = 255) := by decide

/-- An octet is its value; a curve of no points fails test 1, and one of two points at (0, 0) and (1, 0) fails none. -/
theorem witness_AppliedValuesInRange_block :
    ∃ f g : Nat → Nat, (∀ k, f k = (zeroBlock.getD k 0).toNat) ∧ ∀ k, g k = 256 * f k + f (k + 1) :=
  ⟨_, _, fun _ => rfl, fun _ => rfl⟩

theorem witness_AppliedValuesInRange_curve :
    ∃ fails : Nat → Prop, fails 1 ∧ (∀ e, 1 ≤ e → e < 1 → ¬fails e) ∧ ∀ d, fails d → d = 1 :=
  ⟨fun d => d = 1, rfl, fun _ h k => by omega, fun _ h => h⟩

/-- A block with two breakpoints, whose curve is applied as read: (0, 0) and (1, 0). -/
theorem test_curve_as_read :
    (appliedOf 0 (some (List.replicate 30 0 ++ [2] ++ List.replicate 5 0 ++ [1] ++ List.replicate 53 0 ++ [252]))).options.curve =
      [(0, 0), (1, 0)] := by
  decide

/-- A CAP frame of a cabinet's urgency, a BEACON, and a queue of `n` notices. -/
def orderFrame : Frame := { urgency := .order, sender := 0x148, kind := .reply, payload := [] }
def beaconFrame : Frame := { urgency := .routine, sender := 0x148, kind := .beacon, payload := List.replicate 12 0 }
def notices (n : Nat) : List Frame := List.replicate n noticeFrame

theorem witness_QueueOffers :
    let l (q : List Frame) : LineControl := { board.line with queue := q }
    (noticeFrame.Sound ∧ orderFrame.Sound ∧ beaconFrame.Sound) ∧
      ({ l [] with listenOnly := true } : LineControl).listenOnly = true ∧ (l []).listenOnly = false ∧
      (QueueSound (l (notices 2 ++ [beaconFrame])).queue ∧ beaconFrame.kind = .beacon) ∧
      (QueueSound (l (notices 7)).queue ∧ (l (notices 7)).queue.length < 8 ∧
        ∀ q ∈ notices 7, noticeFrame.urgency.code ≤ q.urgency.code ∧ orderFrame.urgency.code < q.urgency.code) ∧
      (QueueSound (l (notices 7 ++ [beaconFrame])).queue ∧ (l (notices 7 ++ [beaconFrame])).queue.length = 8 ∧
        noticeFrame.urgency.code < beaconFrame.urgency.code) ∧
      QueueSound (l (notices 8)).queue ∧ noticeFrame.urgency.code ≤ noticeFrame.urgency.code ∧
        ¬(noticeFrame.kind = .beacon ∧ ∃ q ∈ (l (notices 8)).queue, q.kind = .beacon) := by
  decide

/-! #### Reset and start-up -/

theorem witness_ResetBeginsAndEnds : board.startUp.phase ≠ .resetHeld ∧ State.reset.startUp.phase = .resetHeld := by decide

/-- Attempts may be made; the block read at the last attempt's last bit time; no response; and the port at rest. -/
theorem witness_OptionBlockRead :
    let answered : State := { reading with startUp := { reading.startUp with
      attempts := 3, attemptBegan := some 2000, answered := some 7 } }
    let silent : State := { reading with startUp := { reading.startUp with attempts := 3, attemptBegan := some 2000 } }
    let sending : State := { silent with timeBase := 2023 }
    (reading.startUp.phase = .reading ∧ reading.startUp.attempts < 3 ∧ reading.startUp.answered = none ∧
        reading.timeBase ≤ 1000 * reading.startUp.attempts ∧ reading.startUp.attemptBegan = none) ∧
      (answered.startUp.phase = .reading ∧ answered.startUp.attemptBegan = some 2000 ∧
        answered.startUp.answered = some 7 ∧ answered.timeBase ≤ 2000 + 753 + 7) ∧
      (silent.startUp.phase = .reading ∧ silent.startUp.attemptBegan = some 2000 ∧ silent.startUp.answered = none ∧
        silent.startUp.attempts = 3 ∧ silent.timeBase ≤ 2000 + 32) ∧
      (sending.timeBase = 2000 + 23 ∧ 23 < 24) ∧ board.startUp.phase ≠ .reading := by
  decide

/-- The station as it waits for the supplies to settle. -/
def powering : State := after (.readOutcome []) (after (.readAttempt none) reading)

theorem witness_BlocksReleased :
    powering.startUp.phase = .powering ∧ powering.startUp.waitEnd = some 22032 ∧ powering.timeBase ≤ 22032 ∧
      ∀ c, if powering.used c then (powering.chains.get c).state = .idle ∧ (powering.chains.get c).pend.census = true
        else (powering.chains.get c).state = .off := by
  decide

/-! #### The sensor unit -/

/-- Stamps in the window in progress, at its end, and before it. -/
theorem witness_EdgeTakenIntoItsWindow :
    let four := board.setSensor 0 { board.sensors.get 0 with latest := some (5000040, 4) }
    (board.sensors.get 0).windowEnd = some 5000100 ∧
      ((board.sensors.get 0).latest = some (4999210, 1) ∧ 4999210 < 5000099 ∧ 1 < 4 ∧ 5000099 < 5000100 ∧
        5000100 ≤ 5000099 + board.options.gate) ∧
      5000100 ≤ 5000100 ∧ (four.sensors.get 0).latest = some (5000040, 4) ∧ 5000039 < 5000040 ∧ 4 ≤ 4 := by
  decide

/-- An edge stamped before the window in progress, at a channel that has had none; and a channel that has had none takes its first. -/
theorem witness_EdgeTakenIntoItsWindow_none :
    let fresh := board.setSensor 0 { SensorChannel.reset with windowEnd := some 5000100 }
    (fresh.sensors.get 0).windowEnd = some 5000100 ∧ (fresh.sensors.get 0).latest = none ∧
      4900099 + fresh.options.gate < 5000100 := by
  decide

theorem witness_WindowOutcome :
    let silent := board.setSensor 0 { board.sensors.get 0 with window := ⟨1, some 4900010, some 4900010⟩ }
    (board.sensors.get 0).windowEnd = some 5000100 ∧ 2 ≤ (board.sensors.get 0).window.count ∧
      (silent.sensors.get 0).windowEnd = some 5000100 ∧ (silent.sensors.get 0).window.count < 2 := by
  decide

/-- Two VALID channels, one, and none (R26). -/
theorem witness_WindowOutcome_ambient :
    let two := passBoard .fresh
    ((two.sensors.get 0).state = .valid ∧ (two.sensors.get 0).lastCode = some 341 ∧ (two.sensors.get 1).state = .valid ∧
        (two.sensors.get 1).lastCode = some 352) ∧
      ((board.sensors.get 0).state = .valid ∧ (board.sensors.get 0).lastCode = some 341 ∧
        (board.sensors.get 1).state = .invalid) ∧
      ∀ i, (State.reset.sensors.get i).state = .invalid := by
  decide

/-! #### The line controller -/

theorem witness_LineLevels :
    let stuck : State := { hearing with wire := ⟨0, 65, 4999990, some 4998950, false, false, true, .ignoring⟩ }
    (hearing.running = true ∧ hearing.wire.idle = false ∧ hearing.line.sending = false ∧ hearing.wire.stuck = false ∧
        hearing.wire.Sound) ∧
      (board.running = true ∧ board.wire.idle = true ∧ board.wire.stuckCount = 0 ∧ board.line.sending = false ∧
        board.wire.Sound) ∧
      stuck.running = true ∧ stuck.line.sending = false ∧ stuck.wire.stuck = true ∧ stuck.wire.Sound := by
  decide

/-- A good frame complete before the line is idle, one that is not complete then, and one whose sum is bad. -/
theorem witness_LineLevels_idle :
    let holding (a : Assembler) : State := { hearing with wire := ⟨1, 0, 4999990, some 4999838, false, false, false, a⟩ }
    let last (s : State) := (s.wire.readFrom 16 (s.wire.sampledAt + 16) (List.replicate (12 - s.wire.idleCount) .recessive)).assembler
    (holding (.ended [0x94, 0x82, 0, 0xE9] .complete)).wire.Sound ∧
      last (holding (.ended [0x94, 0x82, 0, 0xE9] .complete)) = .ended [0x94, 0x82, 0, 0xE9] .complete ∧
      octetSum [0x94, 0x82, 0, 0xE9] = 255 ∧ last hearing = .between [0xFF] ∧
      last (holding (.ended [0x94, 0x82, 0, 0] .complete)) = .ended [0x94, 0x82, 0, 0] .complete ∧
      octetSum [0x94, 0x82, 0, 0] ≠ 255 := by
  decide

/-- Whatever the free edge after a sample is, one count and one latest edge follow from it. -/
theorem witness_LineLevels_next (w : LineSamples) (bit : Nat) : ∃ next edge,
    (∀ x, Config.heardEdge w.sampledAt = some x → x < bit →
      next = w.sampledAt + x + bit / 2 ∧ edge = some (w.sampledAt + x)) ∧
    ((∀ x, Config.heardEdge w.sampledAt = some x → bit ≤ x) → next = w.sampledAt + bit ∧ edge = w.edge) := by
  by_cases h : ∃ x, Config.heardEdge w.sampledAt = some x ∧ x < bit
  · obtain ⟨x, e, hx⟩ := h
    refine ⟨w.sampledAt + x + bit / 2, some (w.sampledAt + x), fun y f _ => ?_, fun g => absurd (g x e) (by omega)⟩
    obtain rfl := Option.some.inj (e.symm.trans f)
    exact ⟨rfl, rfl⟩
  · exact ⟨w.sampledAt + bit, w.edge, fun x e hx => absurd ⟨x, e, hx⟩ h, fun _ => ⟨rfl, rfl⟩⟩

theorem witness_FrameStarts :
    let queued : State := { board with line := { board.line with queue := notices 1 } }
    let again : State := { board with line := { board.line with flight := some ⟨noticeFrame, 2⟩ } }
    (queued.running = true ∧ queued.wire.idle = true ∧ queued.line.listenOnly = false ∧
        queued.line.suspended = false ∧ queued.line.flight = none ∧ queued.line.queue = noticeFrame :: []) ∧
      (again.wire.idle = true ∧ again.line.flight = some ⟨noticeFrame, 2⟩ ∧ again.line.queue = []) ∧
      board.line.flight = none ∧ board.line.queue = [] := by
  decide

/-- The bits of the frame that the station sends at which a mismatch is an arbitration loss: key octets 0x94 and 0x82. -/
theorem losing_bits :
    (List.range 20).filter (fun k => ((1 ≤ k ∧ k ≤ 8) ∨ (11 ≤ k ∧ k ≤ 18)) ∧ noticeFrame.levels[k]? = some .recessive) =
      [1, 4, 6, 11, 17] := by
  decide

/-- A loss at bit 1, the first that can be one; an error at bit 0, sent dominant, and at the stop bit 9, sent recessive, from a count
after the middle of bit 8; at the second abort and at the third; and a count after the middle of the last bit, 89. -/
theorem witness_LossesAndAborts :
    let early : State := { driving 1 with timeBase := 5000140 }
    let late : State := { driving 1 with timeBase := 5001433 }
    ((driving 1).running = true ∧ (driving 1).line.sending = true ∧ (driving 1).line.flight = some ⟨noticeFrame, 1⟩ ∧
        bitTimeOf (driving 1).options.lineRate = 16 ∧ 1 + 1 < 3 ∧ (driving 2).line.flight = some ⟨noticeFrame, 2⟩ ∧
        3 ≤ 2 + 1) ∧
      ((driving 1).timeBase ≤ 5000000 + 1 * 16 + 8 ∧ noticeFrame.levels[0]? = some .dominant ∧
        (driving 1).timeBase ≤ 5000000 + 0 * 16 + 8) ∧
      (noticeFrame.levels[9]? = some .recessive ∧ early.timeBase ≤ 5000000 + 9 * 16 + 8 ∧
        5000000 + 8 * 16 + 8 < early.timeBase) ∧
      noticeFrame.levels.length = 90 ∧ 5000000 + 89 * 16 + 8 < late.timeBase := by
  decide

theorem witness_FrameIsSent :
    (driving 0).running = true ∧ (driving 0).line.sending = true ∧ (driving 0).line.flight = some ⟨noticeFrame, 0⟩ := by
  decide

/-- A frame of another station: too short, and of the fixed part's length, for each kind. -/
theorem witness_FramesHandedOn (kind : FrameClass) (payload : List Octet) :
    let octets := frameOctets (keyOf kind.urgency 0x146 kind.code) payload
    hearing.Hears octets (heardBy hearing octets) ∧ hearing.NotHeldBack 0x146 ∧ (List.replicate 24 (0 : Octet)).length ≤ 24 ∧
      ((1#4).toNat = 1 ∧ (List.replicate 11 (0 : Octet)).length < 12 ∧
        (beaconOf (List.replicate 12 0)).isSome = true) ∧
      ((3#4).toNat = 3 ∧ (List.replicate 8 (0 : Octet)).length < 9 ∧
        (capOf (List.replicate 9 0)).map Prod.snd = some 0 ∧ (capOf (List.replicate 9 1)).map Prod.snd ≠ some 0 ∧
        (capOf (List.replicate 9 1)).isSome = true) ∧
      (4#4).toNat = 4 ∧ (List.replicate 4 (0 : Octet)).length < 5 ∧ (queryOf 0x146 (List.replicate 5 0)).isSome = true :=
  ⟨hearing_hears _ _, by decide⟩

/-- A station whose assembler holds all characters of a frame hears it at once. -/
theorem hears_of_ended {u : State} (running : u.running = true) (silent : u.line.sending = false) {octets : List Octet}
    (sound : (Assembler.ended octets .complete).sound = true) :
    let ended : LineSamples := ⟨0, 0, 0, none, false, false, false, .ended octets .complete⟩
    State.Hears { u with wire := ended } octets { u with wire := { ended with quiet := true, assembler := .empty } } := by
  refine ⟨running, silent, ⟨Nat.zero_le _, Nat.zero_le _, .inl rfl, fun h => (by cases h), fun h => (by cases h),
    fun h => (by cases h), sound⟩, charactersLevels octets, [], _, rfl, (List.append_nil _).symm, rfl, ?_⟩
  rw [LineSamples.readFrom, State.arriveAt_past _ (Nat.zero_le _)]

/-- A BEACON of thirteen payload octets, whose row's command stands for one of twelve: the states in which each is heard. -/
theorem witness_FramesHandedOn_row :
    let octets := frameOctets (keyOf 3 0x146 1) (List.replicate 13 0)
    let fixed : Frame := ⟨.routine, 0x146, .beacon, beaconOctets ⟨0, 0, 0, 0, 0, 0, 0, 0⟩⟩
    let u := heardBy hearing octets
    hearing.Hears octets u ∧ beaconOf (List.replicate 13 0) = some ⟨0, 0, 0, 0, 0, 0, 0, 0⟩ ∧
      ∃ r v : State, r.Hears fixed.octets v ∧ v = { u with wire := v.wire } :=
  ⟨hearing_hears _ _, by decide, _, _, hears_of_ended rfl rfl (by decide), rfl⟩

/-- Characters that give each cause of a discard, of which the first start bit has been read. -/
theorem witness_FramesHandedOn_discards :
    let after (levels : List Level) := levels = [.dominant] ++ levels.tail
    (hearing.running = true ∧ hearing.line.sending = false ∧ hearing.wire.Sound ∧
        hearing.wire.assembler.read = some [.dominant]) ∧
      (beginsFrame ([0x94, 0x82] : List Octet).dropLast = true ∧ after ((charactersLevels [0x94, 0x82]).dropLast ++ [.dominant])) ∧
      (([0x94, 0x82, 25] : List Octet)[2]? = some 25 ∧ 24 < (25 : Octet).toNat ∧ after (charactersLevels [0x94, 0x82, 25])) ∧
      (beginsFrame [0x94, 0x82, 24] = true ∧ after (charactersLevels [0x94, 0x82, 24])) ∧
      completeFrame [0x94, 0x82, 0, 0] = true ∧ octetSum [0x94, 0x82, 0, 0] ≠ 255 ∧
        after (charactersLevels [0x94, 0x82, 0, 0]) := by
  decide

/-- Each item of a QUERY with its last argument in range, and with its first beyond it. -/
theorem witness_FramesHandedOn_items :
    let read (item argument : Octet) := (queryOf 0x146 [1, 0x48, item, argument, 9]).map fun q =>
      (q.target, q.item, q.argument.toNat)
    [read 1 7, read 2 63, read 3 63, read 4 31, read 5 255, read 6 3, read 7 255] =
        [some (0x148, 1, 7), some (0x148, 2, 63), some (0x148, 3, 63), some (0x148, 4, 31), some (0x148, 5, 255),
          some (0x148, 6, 3), some (0x148, 7, 255)] ∧
      [read 1 8, read 2 64, read 4 32, read 6 4, read 8 0] =
        [some (0x148, 1, 8), some (0x148, 2, 64), some (0x148, 4, 32), some (0x148, 6, 4), some (0x148, 8, 0)] := by
  decide

theorem witness_OwnAddressHeard (octets : List Octet) (first : Octet) :
    hearing.Hears (first :: octets) (heardBy hearing (first :: octets)) ∧ hearing.line.listenOnly = false ∧
      ([] : List Octet).length ≤ 24 ∧ (0x148 : Addr) = hearing.ownAddress ∧
      ((⟨0x148, 0x148, 1, 0, 0⟩ : Query).asker = 0x148 ∧ (⟨0x148, 0x148, 1, 0, 0⟩ : Query).item = 1) ∧
      ({ board with line := { board.line with clashEnd := some 65000000 } } : State).line.clashEnd = some 65000000 :=
  ⟨hearing_hears _ _, by decide⟩

theorem witness_BeaconIsBuilt :
    board.line.beaconDue = some 5250000 ∧ board.line.listenOnly = false ∧
      (after (.resetEnd 0x3FF) State.reset).line.listenOnly = true := by
  decide

/-! #### Neighbours, caps and aging -/

/-- A sender in the table's window with the greatest mode code, one that no window admits, and an existing record. -/
theorem witness_BeaconAdmitted (b : BeaconWire) :
    let octets := Frame.octets ⟨.routine, 0x146, .beacon, beaconOctets b⟩
    hearing.Hears octets (heardBy hearing octets) ∧ hearing.NotHeldBack 0x146 ∧ (0x146 : Addr) ≠ hearing.ownAddress ∧
      translate hearing.neighbours.windows 0x146 = some 6 ∧ translate hearing.neighbours.windows 0x246 = none ∧
      (3 : Octet).toNat ≤ 3 ∧ 3 < (4 : Octet).toNat ∧ hearing.neighbours.slots.get 6 = some neighbourA ∧
      neighbourA.seq ≤ 255 ∧ hearing.neighbours.slots.get 9 = none :=
  ⟨hearing_hears _ _, by decide⟩

theorem witness_CapsTaken (k : CapWire) (d : BitVec 16) :
    let octets := Frame.octets ⟨.order, 0x3C1, .cap, capOctets k d⟩
    hearing.Hears octets (heardBy hearing octets) ∧ hearing.NotHeldBack 0x3C1 ∧ (1 : BitVec 16) ≠ 0 :=
  ⟨hearing_hears _ _, by decide⟩

theorem witness_QuarterSecondCounts :
    let failed : State := { board with responder := ⟨some ⟨0x3C1, 1, .failed, 31⟩, some 5250000⟩ }
    board.neighbours.agingDue = some 5250000 ∧ board.neighbours.slots.get 6 = some neighbourA ∧
      board.neighbours.slots.get 0 = none ∧ board.cap.countDue = some 5250000 ∧
      board.cap.record = some ⟨320, false, false, 240, 0x001⟩ ∧ (passBoard .fresh).cap.record = none ∧
      board.faults.agingDue = some 5250000 ∧ board.responder.agingDue = some 5250000 ∧
      board.responder.deferred = none ∧ failed.responder.deferred = some ⟨0x3C1, 1, .failed, 31⟩ := by
  decide

/-! #### The settling pass and the chains -/

theorem witness_PassSettles :
    board.settling.passDue = some 5250000 ∧ board.used 0 = true ∧ (board.chains.get 0).state ≠ .off ∧
      board.used 3 = false := by
  decide

/-- Each of the five kinds as the highest request, a DOWN chain with and without a census, and a chain that is busy. -/
theorem witness_OperationStarts :
    let at' (op : ChainState) (p : PendingSet) := (onChain fun ch => { ch with state := op, pend := p }).chains.get 0
    board.running = true ∧ ((at' .idle ⟨true, true, true, true, true⟩).state = .idle ∧
        (at' .idle ⟨true, true, true, true, true⟩).pend.census = true) ∧
      (at' .idle ⟨false, true, true, true, true⟩).pend.brightness = true ∧
      (at' .idle ⟨false, false, true, true, true⟩).pend.detail = true ∧ board.marked 0 1 = true ∧ board.marked 0 2 = false ∧
      (at' .idle ⟨false, false, false, true, true⟩).pend.sweep = true ∧
      (at' .idle ⟨false, false, false, false, true⟩).pend.test = true ∧
      ((at' .down ⟨true, false, false, false, false⟩).state = .down ∧
        (at' .down ⟨true, false, false, false, false⟩).pend.census = true) ∧
      (at' .down ⟨false, true, false, false, false⟩).pend.census = false ∧
      (at' .sweep ⟨true, false, false, false, false⟩).state ≠ .idle := by
  decide

/-- Two used chains on distinct ports. -/
theorem witness_OperationStarts_select :
    board.used 1 = true ∧ board.options.crossbar.get 1 = 1 ∧
      ∀ d, board.used d = true → board.options.crossbar.get d = 1 → d = 1 := by
  decide

/-- Chains in each operation that sends a word or a pattern, in a census, and at rest; bit times at the ends of each part. -/
theorem witness_OperationStarts_sends :
    let running (op : ChainState) := (inOperation op).chains.get 0
    ((running .brightness).state = .brightness ∧ (running .detail).state = .detail ∧ (running .test).state = .test ∧
        (running .census).state = .census ∧ (running .idle).state = .idle) ∧
      0 < 32 ∧ 31 < 32 ∧ 32 < 33 ∧ 253 < 254 ∧ 254 < 255 ∧ 0 < 1 := by
  decide

theorem witness_CensusCounts :
    (inOperation .census).running = true ∧ ((inOperation .census).chains.get 0).state = .census ∧
      (1 ≤ 1 ∧ 1 ≤ 64) ∧ (1 ≤ 64 ∧ 64 ≤ 64) := by
  decide

theorem witness_CensusFails :
    let asked : State := { onChain (fun ch => { ch with
        state := .census, pend := ⟨false, false, true, false, false⟩ }) with
      responder := ⟨some ⟨0x3C1, 1, .waiting, 0⟩, none⟩ }
    (inOperation .census).running = true ∧ ((inOperation .census).chains.get 0).state = .census ∧
      ((inOperation .census).chains.get 0).pend.detail = false ∧ (asked.chains.get 0).pend.detail = true ∧
      asked.responder.deferred = some ⟨0x3C1, 1, .waiting, 0⟩ := by
  decide

/-- A lead bit at the last bit time before the timeout, with an equal echo and with another. -/
theorem witness_BrightnessCompletes :
    (inOperation .brightness).running = true ∧ ((inOperation .brightness).chains.get 0).state = .brightness ∧
      66 + 32 ≤ ((inOperation .brightness).chains.get 0).census.getD 0 + 32 + 64 ∧
      (4185 : BitVec 32).toNat = ((inOperation .brightness).chains.get 0).sentValue % 65536 ∧
      (4186 : BitVec 32).toNat ≠ ((inOperation .brightness).chains.get 0).sentValue % 65536 := by
  decide

/-- A word of a present tile with room, of a present tile on a full FIFO, and of an absent tile. -/
theorem witness_StatusWordCompletes :
    let short := inOperation .sweep
    let absent := longSweep.setTile 8 TileRecord.reset
    (short.running = true ∧ (short.chains.get 0).state = .sweep ∧ (short.chains.get 0).census = some 2 ∧
        (short.chains.get 0).wordsDone < 2 ∧ (short.chains.get 0).stalled = false ∧ 2 + 32 * (0 + 1) ≤ 33 * 2 + 64 ∧
        short.marked 0 0 = true ∧ (short.chains.get 0).fifo.length < 8) ∧
      ((short.chains.get 0).lead = none ∧
          ((short.setChain 0 { short.chains.get 0 with lead := some 2 }).chains.get 0).lead = some 2) ∧
      ((longSweep.chains.get 0).wordsDone < 12 ∧ 12 + 32 * (8 + 1) ≤ 33 * 12 + 64 ∧ longSweep.marked 0 8 = true ∧
        8 ≤ (longSweep.chains.get 0).fifo.length) ∧
      absent.marked 0 8 = false := by
  decide

theorem witness_SweepCompletes :
    let s := onChain fun ch => { ch with state := .sweep, finalArrived := true, entered := [0] }
    s.running = true ∧ (s.chains.get 0).state = .sweep ∧ (s.chains.get 0).finalArrived = true ∧
      (s.chains.get 0).register = none := by
  decide

theorem witness_DetailAndTestComplete :
    let asked : State := { inOperation .detail with responder := ⟨some ⟨0x3C1, 1, .waiting, 0⟩, none⟩ }
    (asked.running = true ∧ (asked.chains.get 0).state = .detail ∧
        66 + 160 ≤ (asked.chains.get 0).census.getD 0 + 160 + 64 ∧
        asked.responder.deferred = some ⟨0x3C1, 1, .waiting, 0⟩) ∧
      (inOperation .test).running = true ∧ ((inOperation .test).chains.get 0).state = .test ∧
      66 + 254 ≤ ((inOperation .test).chains.get 0).census.getD 0 + 254 + 64 := by
  decide

/-- Each of the four operations, and a stalled one. -/
theorem witness_OperationTimesOut :
    let held (op : ChainState) := (inOperation op).chains.get 0
    (inOperation .sweep).running = true ∧ (held .sweep).stalled = false ∧ (held .sweep).finalArrived = false ∧
      (held .brightness).state = .brightness ∧ (held .detail).state = .detail ∧ (held .sweep).state = .sweep ∧
      (held .test).state = .test ∧
      ((onChain fun ch => { ch with state := .sweep, stalled := true }).chains.get 0).stalled = true := by
  decide

theorem witness_ChainIntervals :
    let down := onChain fun ch => { ch with state := .down, retryDue := some 7000000 }
    (board.chains.get 0).state ≠ .off ∧ (board.chains.get 0).sweepDue = some 6000000 ∧
      (board.chains.get 0).testDue = some 60000000 ∧ (down.chains.get 0).state ≠ .off ∧
      (down.chains.get 0).retryDue = some 7000000 := by
  decide

theorem witness_PwmLinesFollowDuty :
    let lit := board.setPort 0 { board.ports.get 0 with lineActive := true, onTime := 261, periodStart := some 4999996 }
    (board.running = true ∧ board.chainOnPort 1 = some 1 ∧ board.pwmCount < 4096 ∧ board.pwmCount % 8 = 0) ∧
      (lit.ports.get 0).periodStart = some 4999996 ∧ (lit.ports.get 0).lineActive = true := by
  decide

/-! #### The status collector and the supply scanner -/

/-- A take on chain 1 past an empty chain 0, a take that frees a waiting word, and a word of an absent tile. -/
theorem witness_CollectorTakes :
    let word : StatusWord := ⟨0, 0x10700000⟩
    let one := board.setChain 1 { restingChain 1 with fifo := [word] }
    let stalled := after (.statusWordComplete 0 12 0) longSweep
    (one.running = true ∧ one.collectorWaits = false ∧ (one.chains.get 1).fifo = word :: [] ∧
        (∀ k : Fin 4, (k - one.collector.pointer).val < ((1 : Fin 4) - one.collector.pointer).val →
          (one.chains.get k).fifo = []) ∧ (one.chains.get 1).register = none ∧
        (one.collector.tiles.get (tileIndex 1 0)).marked = true) ∧
      (stalled.collectorWaits = false ∧ (stalled.chains.get 0).register = some ⟨8, 0⟩ ∧
        (stalled.chains.get 0).fifo.head? = some ⟨0, 0⟩) ∧
      (one.setTile 16 TileRecord.reset).marked 1 word.position = false := by
  decide

/-- Samples below the threshold, between the two levels, and at the recovery level. -/
theorem witness_SupplyWatched :
    let scanning : State := { board with scanner := { board.scanner with queue := [0], conversionEnd := 5000020 } }
    board.scanner.scanDue = some 5250000 ∧ scanning.scanner.queue = 0 :: [] ∧
      725 = scanning.options.nominals.get 0 * scanning.options.droopLevel / 32 ∧
      750 = 725 + scanning.options.nominals.get 0 / 32 ∧ (724 : BitVec 10).toNat < 725 ∧
      (725 ≤ (725 : BitVec 10).toNat ∧ (749 : BitVec 10).toNat < 750) ∧ 750 ≤ (750 : BitVec 10).toNat := by
  decide

/-! #### The fault table -/

/-- The station with these records and this one request waiting. -/
def asking (records : List FaultRecord) (kind : FaultKind) (source : Source) (action : FaultAction) : State :=
  { board with
    faults := board.faults.withRecords records, requests := [⟨4999990, kind, source, action⟩] }

/-- A table of `n` records of TILE_OPEN. -/
def openTiles (n : Nat) : List FaultRecord := (List.range n).map fun k => newRecord .tileOpen (BitVec.ofNat 6 k) (some 1)

theorem asking_sound {records : List FaultRecord} {kind : FaultKind} {source : Source} {action : FaultAction}
    (few : records.length ≤ 24) (names : records.Pairwise fun p q => ¬(p.kind = q.kind ∧ p.source = q.source))
    (each : ∀ r ∈ records, r.Sound) : (asking records kind source action).faults.Sound := by
  refine ⟨few, names, each, ?_, fun h => (by cases h)⟩
  show records.any FaultRecord.assertsOutput = true ↔ _
  simp [FaultRecord.assertsOutput, asking, FaultTable.withRecords]

/-- The hypotheses of a raise that finds its record ACTIVE, of one that finds it CLEARED, and of one that finds none with room. -/
theorem witness_RaiseTaken_found :
    (asking (openTiles 2) .tileOpen 1 (.raise (some 2))).faults.Sound ∧
      (asking ((openTiles 2).map clearedRecord) .tileOpen 1 (.raise (some 2))).faults.Sound ∧
      (asking (openTiles 23) .tileOpen 30 (.raise (some 2))).faults.Sound ∧ (openTiles 23).length < 24 ∧
      (∀ r ∈ openTiles 23, ¬(r.kind = .tileOpen ∧ r.source = 30)) ∧ board.startUp.phase ≠ .resetHeld ∧
      ∃ raised : FaultRecord → LineControl, ∀ r, raised r = board.line.offer
        { urgency := if faultSeverity .tileOpen = .critical then .alarm else .notice, sender := board.ownAddress
          kind := .faultNotice, payload := noticePayload .raised r } :=
  ⟨asking_sound (by decide) (by decide) (by decide), asking_sound (by decide) (by decide) (by decide),
    asking_sound (by decide) (by decide) (by decide), by decide, by decide, by decide, _, fun _ => rfl⟩

/-- A full table that gives up a CLEARED record, one that gives up a MINOR record to a MAJOR raise, and one that gives up none. -/
theorem witness_RaiseTaken_full :
    (asking (openTiles 23 ++ [clearedRecord (newRecord .tileOpen 23 none)]) .tileOpen 30 (.raise none)).faults.Sound ∧
      (asking (openTiles 24) .tileShort 5 (.raise (some 1))).faults.Sound ∧
      (openTiles 24).length = 24 ∧ (∀ r ∈ openTiles 24, r.state = .active) ∧
      (∀ r ∈ openTiles 24, (faultSeverity r.kind).code < (faultSeverity .tileShort).code) ∧
      ∀ r ∈ openTiles 24, (faultSeverity .tileOpen).code ≤ (faultSeverity r.kind).code :=
  ⟨asking_sound (by decide) (by decide) (by decide), asking_sound (by decide) (by decide) (by decide), by decide,
    by decide, by decide, by decide⟩

theorem witness_WithdrawTaken :
    FaultKind.tileOpen ≠ .configDefaulted ∧ board.startUp.phase ≠ .resetHeld ∧
      (asking (openTiles 2) .tileOpen 1 .withdraw).faults.Sound ∧
      (asking (openTiles 2) .tileOpen 1 .withdraw).requests = ⟨4999990, .tileOpen, 1, .withdraw⟩ :: [] ∧
      openTiles 2 = [newRecord .tileOpen 0 (some 1)] ++ newRecord .tileOpen 1 (some 1) :: [] ∧
      ∀ r ∈ openTiles 1, r.kind = .tileOpen → r.source = 1 → r.state = .cleared :=
  ⟨by decide, by decide, asking_sound (by decide) (by decide) (by decide), rfl, by decide, by decide⟩

/-! #### The query responder -/

theorem witness_QueriesAnswered (item argument tag : Octet) :
    let octets := Frame.octets ⟨.order, 0x3C1, .query, queryOctets ⟨0x3C1, 0x148, item, argument, tag⟩⟩
    hearing.Hears octets (heardBy hearing octets) ∧ hearing.NotHeldBack 0x3C1 ∧ hearing.line.listenOnly = false ∧
      (0x3C1 : Addr) ≠ hearing.ownAddress ∧
      ((0 : Octet).toNat = 0 ∧ 7 < (8 : Octet).toNat ∧ 8 ≤ (8 : Octet).toNat ∧ 64 ≤ (64 : Octet).toNat ∧
        32 ≤ (32 : Octet).toNat ∧ 4 ≤ (4 : Octet).toNat) ∧
      ((7 : Octet).toNat < 8 ∧ (63 : Octet).toNat < 64 ∧ (31 : Octet).toNat < 32 ∧ (3 : Octet).toNat < 4) ∧
      (hearing.collector.tiles.get 0).marked = true ∧ (hearing.collector.tiles.get 63).marked = false ∧
      hearing.neighbours.slots.get 31 = none ∧ hearing.neighbours.slots.get 6 = some neighbourA :=
  ⟨hearing_hears _ _, by decide⟩

/-- The station listen-only, with a frame of another station in assembly. -/
def quietHearing : State := { hearing with line := { hearing.line with listenOnly := true } }

/-- A QUERY for another station, one at a listen-only station, and one for this station. -/
theorem witness_QueriesAnswered_target (q : Query) :
    quietHearing.Hears q.frameOctets (heardBy quietHearing q.frameOctets) ∧
      (0x149 : BitVec 16) ≠ hearing.ownAddress.setWidth 16 ∧ (0x148 : BitVec 16) = hearing.ownAddress.setWidth 16 ∧
      quietHearing.line.listenOnly = true ∧ quietHearing.NotHeldBack 0x148 :=
  ⟨query_heard (by rfl) (by rfl) (by rfl) q, by decide⟩

/-- LINE counts the QUERY it answers as good (R42, R192): one frame good, none of the other five, start cause POWER. -/
theorem test_line_item :
    (after (.line 0x3C1 0x148 0 5) hearing).line.queue.map Frame.payload =
      [[3, 193, 5, 7, 0, 0, 0, 0, 0, 0, 0, 0, 0, 0, 0, 1, 0, 0, 0]] := by
  decide

/-- LEVELS packs eight ten-bit codes (R190, R214): all absent but Y_out 286, in REGULATING, own slot 8, cap of 0x001. -/
theorem test_levels_item :
    (after (.levels 0x3C1 0x148 0 5) hearing).line.queue.map Frame.payload =
      [[3, 193, 5, 5, 0, 0, 255, 255, 255, 255, 255, 255, 255, 255, 253, 30, 1, 8, 0, 1, 0, 240]] := by
  decide

/-- The station hearing a frame, with this deferred record of tile 1. -/
def asked (d : DeferredState) : State := { hearing with responder := ⟨some ⟨0x3C1, 1, d, 0⟩, none⟩ }

/-- No record with a present tile, an absent one and a chain that is DOWN; a WAITING, a READY and a FAILED record of the asker. -/
theorem witness_TileDetailProtocol (q : Query) :
    hearing.Hears q.frameOctets (heardBy hearing q.frameOctets) ∧
      (asked .waiting).Hears q.frameOctets (heardBy (asked .waiting) q.frameOctets) ∧ hearing.line.listenOnly = false ∧
      (0x3C1 : Addr) ≠ hearing.ownAddress ∧
      (1 : Fin 64).val = (1 : Octet).toNat ∧ (0 : Fin 4).val = 1 / 16 ∧ hearing.responder.deferred = none ∧
      ((hearing.collector.tiles.get 1).marked = true ∧ (hearing.chains.get 0).state ≠ .off ∧
        (hearing.chains.get 0).state ≠ .down ∧ (hearing.chains.get 0).pend.detail = false) ∧
      (hearing.collector.tiles.get 15).marked = false ∧
      (asked .waiting).responder.deferred = some ⟨0x3C1, 1, .waiting, 0⟩ ∧
      (asked (.ready ⟨1, 2, 3, 4⟩)).responder.deferred = some ⟨0x3C1, 1, .ready ⟨1, 2, 3, 4⟩, 0⟩ ∧
      (asked .failed).responder.deferred = some ⟨0x3C1, 1, .failed, 0⟩ ∧ (0x3C2 : Addr) ≠ 0x3C1 :=
  ⟨query_heard (by rfl) (by rfl) (by rfl) q, query_heard (by rfl) (by rfl) (by rfl) q, by decide⟩

end Sys2Proof.Tests
end

section
/-! The arithmetic of LOG32 and of the duty conversion (R9, R10, R13, R14). -/

namespace Sys2Proof.Machine

open Sys2Proof

/-! ### LOG32 -/

/-- T[m] of R10. -/
def logTable (m : Nat) : Nat := logFraction.getD m 0

/-- T[m] does not decrease, stays below 32, and lies below 32 × log2(1 + m/32) by less than 2.5 up to the next entry. -/
theorem logTable_bounds : ∀ m, m < 32 →
    logTable m ≤ 31 ∧ logTable m ≤ logTable (min (m + 1) 31) ∧ 2 ^ logTable m * 32 ^ 32 ≤ (m + 32) ^ 32 ∧
      (m + 33) ^ 64 ≤ 2 ^ (2 * logTable m + 5) * 32 ^ 64 := by decide

theorem logTable_mono {m n : Nat} (h : m ≤ n) (hn : n < 32) : logTable m ≤ logTable n := by
  induction n, h using Nat.le_induction with
  | base => exact Nat.le_refl _
  | succ n h ih =>
    obtain ⟨-, next, -⟩ := logTable_bounds n (by omega)
    rw [Nat.min_eq_left (by omega)] at next
    exact (ih (by omega)).trans next

/-- m of R10 is the integer part of 32 × x / 2 ^ e, less 32, for a leading one on either side of position 5. -/
theorem logIndex_eq (e x : Nat) : logIndex e x = 32 * x / 2 ^ e - 32 := by
  unfold logIndex
  split
  · next h =>
    have pow : 32 = 2 ^ (5 - e) * 2 ^ e := by rw [← Nat.pow_add, Nat.sub_add_cancel h]
    have whole : 32 * x = x * 2 ^ (5 - e) * 2 ^ e := by rw [Nat.mul_assoc, ← pow, Nat.mul_comm]
    rw [whole, Nat.mul_div_cancel _ (Nat.two_pow_pos e)]
  · next h =>
    have pow : 2 ^ e = 32 * 2 ^ (e - 5) := by
      rw [show (32 : Nat) = 2 ^ 5 from rfl, ← Nat.pow_add, Nat.add_sub_cancel' (by omega)]
    rw [pow, Nat.mul_div_mul_left _ _ (by decide)]

theorem log32_eq (x : Nat) : log32 x = 32 * Nat.log2 x + logTable (logIndex (Nat.log2 x) x) := rfl

/-- The leading one of `x`, at position e, and the index m that follows it, bound `x` on both sides:
(m + 32) × 2 ^ e ≤ 32 × x < (m + 33) × 2 ^ e. -/
theorem logIndex_bounds {x : Nat} (h : 1 ≤ x) :
    logIndex (Nat.log2 x) x < 32 ∧ (logIndex (Nat.log2 x) x + 32) * 2 ^ Nat.log2 x ≤ 32 * x ∧
      32 * x < (logIndex (Nat.log2 x) x + 33) * 2 ^ Nat.log2 x := by
  have pos := Nat.two_pow_pos (Nat.log2 x)
  have low : 2 ^ Nat.log2 x ≤ x := Nat.log2_self_le (by omega)
  have high : x < 2 * 2 ^ Nat.log2 x := by rw [← Nat.pow_succ']; exact Nat.lt_log2_self
  rw [logIndex_eq]
  have least : 32 ≤ 32 * x / 2 ^ Nat.log2 x := (Nat.le_div_iff_mul_le pos).mpr (by omega)
  have most : 32 * x / 2 ^ Nat.log2 x < 64 := (Nat.div_lt_iff_lt_mul pos).mpr (by omega)
  refine ⟨by omega, ?_, ?_⟩
  · rw [Nat.sub_add_cancel least]
    exact Nat.div_mul_le_self _ _
  · rw [show 32 * x / 2 ^ Nat.log2 x - 32 + 33 = 32 * x / 2 ^ Nat.log2 x + 1 by omega]
    exact (Nat.div_lt_iff_lt_mul pos).mp (Nat.lt_succ_self _)

/-- LOG32 never exceeds 32 × log2(x). -/
theorem two_pow_log32_le {x : Nat} (h : 1 ≤ x) : 2 ^ log32 x ≤ x ^ 32 := by
  obtain ⟨small, low, -⟩ := logIndex_bounds h
  obtain ⟨-, -, table, -⟩ := logTable_bounds _ small
  rw [log32_eq]
  generalize Nat.log2 x = e at *
  generalize logIndex e x = m at *
  refine Nat.le_of_mul_le_mul_right (c := 32 ^ 32) ?_ (by decide)
  calc 2 ^ (32 * e + logTable m) * 32 ^ 32 = (2 ^ logTable m * 32 ^ 32) * (2 ^ e) ^ 32 := by ring
    _ ≤ (m + 32) ^ 32 * (2 ^ e) ^ 32 := Nat.mul_le_mul_right _ table
    _ = ((m + 32) * 2 ^ e) ^ 32 := (Nat.mul_pow _ _ _).symm
    _ ≤ (32 * x) ^ 32 := Nat.pow_le_pow_left low 32
    _ = x ^ 32 * 32 ^ 32 := by rw [Nat.mul_pow, Nat.mul_comm]

/-- LOG32 falls short of 32 × log2(x) by less than 2.5. -/
theorem pow_lt_two_pow_log32 {x : Nat} (h : 1 ≤ x) : x ^ 64 < 2 ^ (2 * log32 x + 5) := by
  obtain ⟨small, -, high⟩ := logIndex_bounds h
  obtain ⟨-, -, -, table⟩ := logTable_bounds _ small
  rw [log32_eq]
  generalize Nat.log2 x = e at *
  generalize logIndex e x = m at *
  refine Nat.lt_of_mul_lt_mul_right (a := 32 ^ 64) ?_
  calc x ^ 64 * 32 ^ 64 = (32 * x) ^ 64 := by rw [Nat.mul_pow, Nat.mul_comm]
    _ < ((m + 33) * 2 ^ e) ^ 64 := Nat.pow_lt_pow_left high (by decide)
    _ = (m + 33) ^ 64 * (2 ^ e) ^ 64 := Nat.mul_pow _ _ _
    _ ≤ (2 ^ (2 * logTable m + 5) * 32 ^ 64) * (2 ^ e) ^ 64 := Nat.mul_le_mul_right _ table
    _ = 2 ^ (2 * (32 * e + logTable m) + 5) * 32 ^ 64 := by ring

/-- LOG32 does not decrease: at one position of the leading one by T, and from one to the next since T stays below 32. -/
theorem log32_mono {x y : Nat} (hx : 1 ≤ x) (h : x ≤ y) : log32 x ≤ log32 y := by
  have order : Nat.log2 x ≤ Nat.log2 y := (Nat.le_log2 (by omega)).mpr ((Nat.log2_self_le (by omega)).trans h)
  obtain ⟨smallX, -, -⟩ := logIndex_bounds hx
  obtain ⟨smallY, -, -⟩ := logIndex_bounds (hx.trans h)
  obtain ⟨below, -⟩ := logTable_bounds _ smallX
  rw [log32_eq, log32_eq]
  rcases Nat.eq_or_lt_of_le order with same | less
  · rw [same] at smallX ⊢
    refine Nat.add_le_add_left (logTable_mono ?_ smallY) _
    rw [logIndex_eq, logIndex_eq]
    exact Nat.sub_le_sub_right (Nat.div_le_div_right (Nat.mul_le_mul_left _ h)) _
  · omega

theorem log32_le {x : Nat} (hx : 1 ≤ x) (h : x ≤ 524287) : log32 x ≤ 607 := log32_mono hx h

/-- Settles O19: the index of T bounds x between two neighbouring thirty-seconds of the power of two below it. -/
theorem logIsAccurate : Obligations.LogIsAccurate := by
  unfold Obligations.LogIsAccurate
  intro x hx h
  exact ⟨log32_le hx h, fun y hy _ => log32_mono hx hy, two_pow_log32_le hx, pow_lt_two_pow_log32 hx⟩

/-! ### The duty conversion -/

/-- The duty word of Δ, the distance of a chain's luminance below Y_peak (R13). -/
def dutyBelow (d : Nat) : Nat := dutyFraction.getD (d % 32) 0 / 2 ^ (d / 32)

theorem dutyWord_eq (yPeak y : Nat) : dutyWord yPeak y = dutyBelow (yPeak - y) := rfl

/-- E[r] does not rise. -/
theorem dutyFraction_falls : ∀ r, r < 31 → dutyFraction.getD (r + 1) 0 ≤ dutyFraction.getD r 0 := by decide

/-- One code further below Y_peak the duty word is no greater: by E[r] as r grows, and by halving once r starts again at 0. -/
theorem dutyBelow_succ_le (d : Nat) : dutyBelow (d + 1) ≤ dutyBelow d := by
  unfold dutyBelow
  rcases Nat.lt_or_ge (d % 32) 31 with h | h
  · rw [show (d + 1) % 32 = d % 32 + 1 by omega, show (d + 1) / 32 = d / 32 by omega]
    exact Nat.div_le_div_right (dutyFraction_falls _ h)
  · rw [show (d + 1) % 32 = 0 by omega, show (d + 1) / 32 = d / 32 + 1 by omega, show d % 32 = 31 by omega,
      Nat.pow_succ', ← Nat.div_div_eq_div_mul]
    exact Nat.div_le_div_right (by decide)

theorem dutyBelow_antitone : Antitone dutyBelow := antitone_nat_of_succ_le dutyBelow_succ_le

@[simp] theorem dutyBelow_zero : dutyBelow 0 = 65535 := rfl

theorem dutyWord_le (yPeak y : Nat) : dutyWord yPeak y ≤ 65535 := dutyBelow_antitone (Nat.zero_le _)

theorem one_le_dutyWord {yPeak : Nat} (h : yPeak ≤ 511) (y : Nat) : 1 ≤ dutyWord yPeak y :=
  dutyBelow_antitone (show yPeak - y ≤ 511 by omega)

theorem dutyWord_mono (yPeak : Nat) {a b : Nat} (h : a ≤ b) : dutyWord yPeak a ≤ dutyWord yPeak b :=
  dutyBelow_antitone (Nat.sub_le_sub_left h _)

theorem dutyOf_dark (o : Options) (yOut : Nat) (c : Fin 4) : dutyOf o .dark yOut c = 0 := if_pos rfl

theorem dutyOf_lit (o : Options) {mode : Mode} (yOut : Nat) (c : Fin 4) (h : mode ≠ .dark) :
    dutyOf o mode yOut c = dutyWord o.yPeak (chainLuminance o.yPeak yOut (o.trims.get c)) := if_neg h

theorem dutyOf_le (o : Options) (mode : Mode) (yOut : Nat) (c : Fin 4) : dutyOf o mode yOut c ≤ 65535 := by
  by_cases h : mode = .dark
  · rw [h, dutyOf_dark]; omega
  · rw [dutyOf_lit o yOut c h]; exact dutyWord_le _ _

/-- Settles O20: the duty word falls with Δ, from 65535 at 0 to 1 at 511. -/
theorem dutyWordRange : Obligations.DutyWordRange := by
  unfold Obligations.DutyWordRange
  refine ⟨dutyOf_dark, fun o mode yOut c peak lit => ⟨?_, dutyOf_le o mode yOut c⟩, rfl, fun y => ?_, rfl,
    fun yPeak a b _ h _ => dutyWord_mono yPeak h⟩
  · rw [dutyOf_lit o yOut c lit]
    exact one_le_dutyWord peak _
  · rw [dutyWord_eq, Nat.sub_self, dutyBelow_zero]

end Sys2Proof.Machine
end

section
/-! What every command keeps: but for the parts that its row changes, its next state is the present one with some time passed. -/

namespace Sys2Proof.Machine

open Sys2Proof

/-! ### Frames of single parts -/

theorem keeps_setSensor (i : Fin 2) (x : SensorChannel) (s : State) : Keeps [.sensors] s (s.setSensor i x) := by
  intro p hp; cases p <;> simp_all [Part.agrees]

theorem keeps_setPort (p : Fin 4) (x : Port) (s : State) : Keeps [.ports] s (s.setPort p x) := by
  intro p hp; cases p <;> simp_all [Part.agrees]

theorem keeps_setFaults (x : FaultTable) (s : State) : Keeps [.faults] s (s.setFaults x) := by
  intro p hp; cases p <;> simp_all [Part.agrees]

theorem keeps_setCap (x : Option CapRecord) (s : State) : Keeps [.cap] s (s.setCap x) := by
  intro p hp; cases p <;> simp_all [Part.agrees, State.setCap]

theorem keeps_setSlot (i : Fin 32) (x : Option Neighbour) (s : State) : Keeps [.neighbours] s (s.setSlot i x) := by
  intro p hp; cases p <;> simp_all [Part.agrees]

theorem keeps_setTile (i : Fin 64) (x : TileRecord) (s : State) : Keeps [.collector] s (s.setTile i x) := by
  intro p hp; cases p <;> simp_all [Part.agrees]

theorem keeps_startUp (x : StartUp) (s : State) : Keeps [.startUp] s { s with startUp := x } := by
  intro p hp; cases p <;> simp_all [Part.agrees]

theorem keeps_neighbours (x : NeighbourTable) (s : State) : Keeps [.neighbours] s { s with neighbours := x } := by
  intro p hp; cases p <;> simp_all [Part.agrees]

theorem keeps_cap (x : CapUnit) (s : State) : Keeps [.cap] s { s with cap := x } := by
  intro p hp; cases p <;> simp_all [Part.agrees]

theorem keeps_collector (x : Collector) (s : State) : Keeps [.collector] s { s with collector := x } := by
  intro p hp; cases p <;> simp_all [Part.agrees]

theorem keeps_scanner (x : Scanner) (s : State) : Keeps [.scanner] s { s with scanner := x } := by
  intro p hp; cases p <;> simp_all [Part.agrees]

theorem keeps_requests (x : List Request) (s : State) : Keeps [.requests] s { s with requests := x } := by
  intro p hp; cases p <;> simp_all [Part.agrees]

theorem keeps_responder (x : Responder) (s : State) : Keeps [.responder] s { s with responder := x } := by
  intro p hp; cases p <;> simp_all [Part.agrees]

/-! ### Frames with time passed -/

/-- `t` is `s` with some time passed, but for the parts named. -/
def KeepsLater (changed : List Part) (s t : State) : Prop := ∃ n, Keeps changed (s.passHalves n) t

theorem KeepsLater.refl {l : List Part} {s : State} : KeepsLater l s s := ⟨0, by rw [State.passHalves_zero]; exact Keeps.refl⟩

/-- A frame without time. -/
theorem Keeps.later {l : List Part} {s t : State} (h : Keeps l s t) : KeepsLater l s t :=
  ⟨0, by rw [State.passHalves_zero]; exact h⟩

theorem KeepsLater.trans {l : List Part} {s t u : State} (h : KeepsLater l s t) (k : Keeps l t u) : KeepsLater l s u := by
  obtain ⟨n, h⟩ := h
  exact ⟨n, h.trans k⟩

theorem KeepsLater.mono {l m : List Part} {s t : State} (h : KeepsLater l s t) (k : ∀ p ∈ l, p ∈ m) : KeepsLater m s t := by
  obtain ⟨n, h⟩ := h
  exact ⟨n, h.mono k⟩

/-- What is kept from a moment arrived at on. -/
theorem Keeps.afterArrival {l : List Part} {n : Nat} {s t : State} (h : Keeps l (s.arriveAt n) t) : KeepsLater l s t := ⟨_, h⟩

/-- What is kept from a bit reached on, in a row that changes the chains. -/
theorem Keeps.afterBit {l : List Part} {c : Fin 4} {k : Nat} {s t : State} (h : Keeps l (s.reachBit c k) t)
    (hc : Part.chains ∈ l) : KeepsLater l s t :=
  ⟨_, ((keeps_reachBit c k s).mono (by simp [hc])).trans h⟩

/-- A command that does nothing where its condition does not hold (log entry 1). -/
theorem KeepsLater.ite {l : List Part} {b : Prop} [Decidable b] {s t : State} (h : b → KeepsLater l s t) :
    KeepsLater l s (if b then t else s) := by
  split
  · next hb => exact h hb
  · exact KeepsLater.refl

/-- A frame holds of either branch when it holds of both. -/
theorem Keeps.ite {l : List Part} {b : Prop} [Decidable b] {s t u : State} (h : Keeps l s t) (k : Keeps l s u) :
    Keeps l s (if b then t else u) := by
  split
  · exact h
  · exact k

/-! ### Reset and start-up -/

theorem keepsLater_resetAssert (w : ResetSource) (s : State) : ∃ t, exec (.resetAssert w) s = .next t ∧
    KeepsLater (changes (.resetAssert w)) s t := by
  refine ⟨_, rfl, Keeps.later fun p hp => ?_⟩
  cases p
  case pending => rfl
  all_goals exact absurd (by simp [changes]) hp

theorem keeps_endReset (straps : Addr) (s : State) : Keeps [.timeBase, .startUp, .line, .cap] s (s.endReset straps) := by
  intro p hp; cases p <;> simp_all [Part.agrees, State.endReset]

theorem keeps_handOver (a : Applied) (octets : List Octet) (s : State) :
    Keeps [.startUp, .neighbours, .settling, .chains, .ports] s (s.handOver a octets) := by
  intro p hp; cases p <;> simp_all [Part.agrees, State.handOver]

theorem keeps_release (s : State) :
    Keeps [.pwmCount, .startUp, .sensors, .line, .wire, .neighbours, .settling, .chains, .scanner, .faults, .responder] s
      s.release := by
  intro p hp; cases p <;> simp_all [Part.agrees, State.release]

theorem keepsLater_readOutcome (octets : List Octet) (s : State) : ∃ t, exec (.readOutcome octets) s = .next t ∧
    KeepsLater (changes (.readOutcome octets)) s t := by
  refine ⟨_, rfl, ?_⟩
  split
  · exact KeepsLater.refl
  · exact (((keeps_handOver _ _ _).mono (by simp [changes])).trans
      ((keeps_requestAll _ _).mono (by simp [changes]))).afterArrival

theorem keepsLater_settlingWaitExpiry (s : State) : ∃ t, exec .settlingWaitExpiry s = .next t ∧
    KeepsLater (changes .settlingWaitExpiry) s t := by
  refine ⟨_, rfl, KeepsLater.ite fun _ => Keeps.afterArrival (n := s.startUp.waitEnd.getD 0) ?_⟩
  exact ((keeps_release _).mono (by simp [changes])).trans
    (Keeps.foldl (fun t c => (keeps_startHighest c t).mono (by simp [changes])) _ _)

/-! ### The sensor unit and the line controller -/

theorem keeps_endWindow (i : Fin 2) (e : Nat) (s : State) : Keeps [.sensors, .requests] s (s.endWindow i e) := by
  unfold State.endWindow
  dsimp only
  split
  · exact (keeps_setSensor _ _ _).mono (by simp)
  · exact ((keeps_setSensor _ _ _).mono (by simp)).trans ((keeps_request _ _ _ _).mono (by simp))

theorem keeps_becomeIdle (w : LineSamples) (s : State) : Keeps [.line, .wire, .requests] s (s.becomeIdle w) := by
  have idle : Keeps [.line, .wire, .requests] s ((s.setLine (s.line.becomeIdle w.assembler.holdsFrame)).setWire w.becomeIdle) :=
    ((keeps_setLine _ _).mono (by simp)).trans ((keeps_setWire _ _).mono (by simp))
  exact Keeps.ite (idle.trans ((keeps_request _ _ _ _).mono (by simp))) idle

theorem keeps_stick (w : LineSamples) (s : State) : Keeps [.line, .wire, .requests] s (s.stick w) :=
  (((keeps_setLine _ _).mono (by simp)).trans ((keeps_setWire _ _).mono (by simp))).trans
    ((keeps_request _ _ _ _).mono (by simp))

theorem keeps_misread (k : Nat) (l : Level) (s : State) : Keeps [.wire] s (s.misread k l) := keeps_setWire _ _

theorem keeps_abortFlight (f : Flight) (stop : Option Nat) (s : State) :
    Keeps [.line, .requests] s (s.abortFlight f stop) :=
  Keeps.ite (((keeps_setLine _ _).mono (by simp)).trans ((keeps_request _ _ _ _).mono (by simp)))
    ((keeps_setLine _ _).mono (by simp))

theorem keeps_finishSend (s : State) : Keeps [.line, .requests] s s.finishSend := by
  have sent : Keeps [.line, .requests] s (s.setLine s.line.finishSend) := (keeps_setLine _ _).mono (by simp)
  exact Keeps.ite (sent.trans ((keeps_request _ _ _ _).mono (by simp))) sent

theorem keepsLater_discard (cause : DiscardCause) (s : State) : KeepsLater [.line, .wire] s (s.discard cause) := by
  rcases State.discard_cases cause s with ⟨-, h⟩ | ⟨w, -, -, h⟩ <;> rw [h]
  · exact KeepsLater.refl
  · exact (((keeps_arriveWith w s).mono (by simp)).trans ((keeps_setLine _ _).mono (by simp))).afterArrival

theorem keeps_buildBeacon (d : Nat) (s : State) : Keeps [.line] s (s.buildBeacon d) :=
  (keeps_setLine _ _).trans (keeps_offerFrame _ _)

/-! ### Frames heard -/

theorem keeps_takeBeacon (sender : Addr) (b : BeaconWire) (s : State) : Keeps [.neighbours] s (s.takeBeacon sender b) := by
  unfold State.takeBeacon
  split
  · exact Keeps.refl
  · split
    · exact keeps_setSlot _ _ _
    · exact Keeps.refl

theorem keeps_takeCap (sender : Addr) (c : CapWire) (duration : Nat) (s : State) :
    Keeps [.cap] s (s.takeCap sender c duration) := Keeps.ite (keeps_setCap _ _) Keeps.refl

theorem keeps_answerBadItem (q : Query) (s : State) : Keeps [.line] s (s.answerBadItem q) := keeps_reply _ _ _ _

theorem keeps_answerFaults (q : Query) (s : State) : Keeps [.line] s (s.answerFaults q) :=
  Keeps.ite (keeps_reply _ _ _ _) (keeps_answerBadItem _ _)

theorem keeps_answerTile (q : Query) (s : State) : Keeps [.line] s (s.answerTile q) := by
  unfold State.answerTile
  split
  · exact Keeps.ite (keeps_reply _ _ _ _) (keeps_reply _ _ _ _)
  · exact keeps_answerBadItem _ _

theorem keeps_answerView (q : Query) (s : State) : Keeps [.line] s (s.answerView q) := by
  unfold State.answerView
  split
  · exact keeps_reply _ _ _ _
  · exact keeps_answerBadItem _ _

theorem keeps_answerLevels (q : Query) (s : State) : Keeps [.line] s (s.answerLevels q) := keeps_reply _ _ _ _

theorem keeps_answerChain (q : Query) (s : State) : Keeps [.line] s (s.answerChain q) := by
  unfold State.answerChain
  split
  · exact keeps_reply _ _ _ _
  · exact keeps_answerBadItem _ _

theorem keeps_answerLine (q : Query) (s : State) : Keeps [.line] s (s.answerLine q) := keeps_reply _ _ _ _

theorem keeps_firstAsk (q : Query) (i : Fin 64) (s : State) : Keeps [.line, .chains, .responder] s (s.firstAsk q i) :=
  Keeps.ite ((keeps_reply _ _ _ _).mono (by simp))
    ((((keeps_setDeferred _ _).mono (by simp)).trans ((keeps_postDetail _ _ _).mono (by simp))).trans
      ((keeps_reply _ _ _ _).mono (by simp)))

theorem keeps_askAgain (q : Query) (d : Deferred) (s : State) : Keeps [.line, .responder] s (s.askAgain q d) := by
  have reply : ∀ status data t, Keeps [.line, .responder] t (t.reply q status data) :=
    fun status data t => (keeps_reply q status data t).mono (by simp)
  have freed : Keeps [.line, .responder] s (s.setDeferred none) := (keeps_setDeferred _ _).mono (by simp)
  unfold State.askAgain
  split
  · split
    · exact reply _ _ _
    · exact freed.trans (reply _ _ _)
    · exact freed.trans (reply _ _ _)
  · exact reply _ _ _

theorem keeps_answerTileDetail (q : Query) (s : State) : Keeps [.line, .chains, .responder] s (s.answerTileDetail q) := by
  unfold State.answerTileDetail
  split
  · split
    · exact keeps_firstAsk _ _ _
    · exact (keeps_askAgain _ _ _).mono (by simp)
  · exact (keeps_answerBadItem _ _).mono (by simp)

theorem keeps_answer (q : Query) (s : State) : Keeps [.line, .chains, .responder] s (s.answer q) := by
  unfold State.answer
  split
  · exact (keeps_answerFaults _ _).mono (by simp)
  · exact (keeps_answerTile _ _).mono (by simp)
  · exact keeps_answerTileDetail _ _
  · exact (keeps_answerView _ _).mono (by simp)
  · exact (keeps_answerLevels _ _).mono (by simp)
  · exact (keeps_answerChain _ _).mono (by simp)
  · exact (keeps_answerLine _ _).mono (by simp)
  · exact (keeps_answerBadItem _ _).mono (by simp)

theorem keeps_handOn (kind : BitVec 4) (sender : Addr) (payload : List Octet) (s : State) :
    Keeps [.line, .neighbours, .cap, .chains, .responder] s (s.handOn kind sender payload) := by
  unfold State.handOn
  split
  · split
    · exact (keeps_takeBeacon _ _ _).mono (by simp)
    · exact Keeps.refl
  · split
    · exact (keeps_takeCap _ _ _ _).mono (by simp)
    · exact Keeps.refl
  · split
    · exact Keeps.ite ((keeps_answer _ _).mono (by simp)) Keeps.refl
    · exact Keeps.refl
  · exact Keeps.refl

theorem keepsLater_frameReceived (kind : FrameClass) (sender : Addr) (payload : List Octet) (s : State) :
    ∃ t, exec (.frameReceived kind sender payload) s = .next t ∧
      KeepsLater (changes (.frameReceived kind sender payload)) s t := by
  refine ⟨_, rfl, ?_⟩
  split
  · exact keeps_hear _ _ _ _ (by simp [changes]) (by simp [changes]) (by simp [changes])
      fun t => (keeps_handOn _ _ _ t).mono (by simp [changes])
  · exact (keepsLater_discard _ _).mono (by simp [changes])

theorem keepsLater_hearCap (sender : Addr) (c : CapWire) (duration : BitVec 16) (s : State) :
    KeepsLater [.line, .wire, .requests, .cap] s (s.hearCap sender c duration) :=
  keeps_hear _ _ _ _ (by simp) (by simp) (by simp) fun t => (keeps_takeCap _ _ _ t).mono (by simp)

/-- A query whose answer changes nothing but the line controller. -/
theorem keepsLater_hearQuery {respond : State → State} (q : Query) (s : State) (h : ∀ t, Keeps [.line] t (respond t)) :
    KeepsLater [.line, .wire, .requests] s (s.hearQuery q respond) :=
  keeps_hearQuery _ _ (by simp) (by simp) (by simp) fun t => (h t).mono (by simp)

/-- A query whose answer may post a detail request. -/
theorem keepsLater_hearDetailQuery {respond : State → State} (q : Query) (s : State)
    (h : ∀ t, Keeps [.line, .chains, .responder] t (respond t)) :
    KeepsLater [.line, .wire, .requests, .chains, .responder] s (s.hearQuery q respond) :=
  keeps_hearQuery _ _ (by simp) (by simp) (by simp) fun t => (h t).mono (by simp)

/-! ### The settling controller and the chains -/

theorem keeps_pass (d : Nat) (s : State) : Keeps [.settling, .chains] s (s.pass d) := by
  intro p hp; cases p <;> simp_all [Part.agrees, State.pass, State.postDuties]

theorem keeps_chainRequest (c : Fin 4) (kind : FaultKind) (action : FaultAction) (s : State) :
    Keeps [.requests] s (s.chainRequest c kind action) := keeps_request _ _ _ _

theorem keeps_censusUsable (c : Fin 4) (count : Nat) (s : State) :
    Keeps [.chains, .collector, .requests] s (s.censusUsable c count) := by
  have ask : ∀ kind action t, Keeps [.chains, .collector, .requests] t (t.chainRequest c kind action) :=
    fun kind action t => (keeps_chainRequest c kind action t).mono (by simp)
  exact ((((ask _ _ _).trans (ask _ _ _)).trans (ask _ _ _)).trans ((keeps_markChain _ _ _).mono (by simp))).trans
    ((keeps_setChain _ _ _).mono (by simp))

theorem keeps_censusDown (c : Fin 4) (straightBack : Bool) (s : State) :
    Keeps [.chains, .collector, .requests, .responder] s (s.censusDown c straightBack) := by
  have down : Keeps [.chains, .collector, .requests, .responder] s _ :=
    (((keeps_setChain c ((s.chains.get c).unusable (if straightBack then some 0 else none)
      (s.timeBase + Config.censusRetry)) s).mono (by simp)).trans ((keeps_markChain c 0 _).mono (by simp))).trans
      ((keeps_chainRequest c .chainDown (.raise (some (if straightBack then 0 else 0xFFFF))) _).mono (by simp))
  exact Keeps.ite (down.trans ((keeps_detailOutcome _ _).mono (by simp))) down

theorem keeps_endBrightness (c : Fin 4) (echo : BitVec 32) (s : State) :
    Keeps [.chains, .requests] s (s.endBrightness c echo) := by
  have echoed : Keeps [.chains, .requests] s (s.setChain c ((s.chains.get c).echoed echo)) :=
    (keeps_setChain _ _ _).mono (by simp)
  exact (Keeps.ite (echoed.trans ((keeps_chainRequest _ _ _ _).mono (by simp))) echoed).trans
    ((keeps_chainRequest _ _ _ _).mono (by simp))

theorem keeps_endDetail (c : Fin 4) (echo : BitVec 32) (words : DetailWords) (s : State) :
    Keeps [.chains, .requests, .responder] s (s.endDetail c echo words) :=
  (((keeps_setChain _ _ _).mono (by simp)).trans ((keeps_detailOutcome _ _).mono (by simp))).trans
    ((keeps_chainRequest _ _ _ _).mono (by simp))

theorem keeps_endTest (c : Fin 4) (mismatches : Nat) (s : State) :
    Keeps [.chains, .requests] s (s.endTest c mismatches) :=
  (((keeps_setChain _ _ _).mono (by simp)).trans ((keeps_chainRequest _ _ _ _).mono (by simp))).trans
    ((keeps_chainRequest _ _ _ _).mono (by simp))

theorem keeps_abortOperation (c : Fin 4) (s : State) :
    Keeps [.chains, .collector, .requests, .responder] s (s.abortOperation c) :=
  ((Keeps.trans (Keeps.ite ((keeps_sweepReport _ _ _).mono (by simp)) Keeps.refl)
      (Keeps.ite ((keeps_detailOutcome _ _).mono (by simp)) Keeps.refl)).trans
    ((keeps_chainRequest _ _ _ _).mono (by simp))).trans ((keeps_setChain _ _ _).mono (by simp))

theorem keeps_beginPeriod (p : Fin 4) (s : State) : Keeps [.ports] s (s.beginPeriod p) := keeps_setPort _ _ _

/-! ### The collector, the scanner and the fault table -/

theorem keeps_handleWord (c : Fin 4) (w : StatusWord) (s : State) :
    Keeps [.collector, .requests] s (s.handleWord c w) := by
  unfold State.handleWord
  split
  · exact Keeps.ite (((keeps_setTile _ _ _).mono (by simp)).trans ((keeps_requestAll _ _).mono (by simp))) Keeps.refl
  · exact Keeps.refl

theorem keeps_take (c : Fin 4) (s : State) : Keeps [.chains, .collector, .requests] s (s.take c) := by
  have taken : Keeps [.chains, .collector, .requests] s _ :=
    ((keeps_setChain c (s.chains.get c).taken s).mono (by simp)).trans
      ((keeps_collector { s.collector with pointer := c + 1, lastTake := some s.timeBase } _).mono (by simp))
  unfold State.take
  dsimp only
  split
  · exact taken
  · exact taken.trans ((keeps_handleWord _ _ _).mono (by simp))

/-- A request made does not bear on how time passes. -/
theorem State.request_passHalves (n : Nat) (kind : FaultKind) (source : Source) (action : FaultAction) (s : State) :
    (s.request kind source action).passHalves n =
      { s.passHalves n with requests := (s.request kind source action).requests } := by
  by_cases hp : s.startUp.phase = .resetHeld
  · rw [State.passHalves_held n s hp, State.passHalves_held n (s.request kind source action) hp]; rfl
  cases hr : s.running
  · rw [State.passHalves_unreleased n s hr hp, State.passHalves_unreleased n (s.request kind source action) hr hp]; rfl
  rcases Nat.eq_zero_or_pos n with rfl | hn
  · rw [State.passHalves_zero, State.passHalves_zero]; rfl
  · rw [State.passHalves_released n s hr hn, State.passHalves_released n (s.request kind source action) hr hn]; rfl

theorem keepsLater_takeRequest (kind : FaultKind) (source : Source) (action : FaultAction) (s : State) :
    KeepsLater [.faults, .requests, .line] s (s.takeRequest kind source action) := by
  have ensured : Keeps [.requests] s (s.ensureRequest kind source action) := by
    rcases State.ensureRequest_cases kind source action s with h | h <;> rw [h]
    · exact Keeps.refl
    · exact keeps_request _ _ _ _
  have begun : KeepsLater [.faults, .requests, .line] s (s.ensureRequest kind source action).beginTake := by
    unfold State.beginTake
    rcases State.ensureRequest_cases kind source action s with h | h <;> rw [h]
    · exact ((keeps_setFaults _ _).mono (by simp)).afterArrival
    · exact ⟨_, ((State.request_passHalves _ _ _ _ s ▸ keeps_requests _ _).mono (by simp)).trans
        ((keeps_setFaults _ _).mono (by simp))⟩
  rcases State.takeRequest_cases kind source action s with h | ⟨-, h⟩ <;> rw [h]
  · exact (ensured.mono (by simp)).later
  · exact (begun.trans ((keeps_requests _ _).mono (by simp))).trans ((keeps_takeAction _ _ _ _).mono (by simp))

theorem keeps_evaluateSample (p : Fin 4) (rest : List (Fin 4)) (sample : Nat) (s : State) :
    Keeps [.scanner, .requests] s (s.evaluateSample p rest sample) := by
  unfold State.evaluateSample
  dsimp only
  split
  · exact ((keeps_scanner _ _).mono (by simp)).trans ((keeps_request _ _ _ _).mono (by simp))
  · exact (keeps_scanner _ _).mono (by simp)

end Sys2Proof.Machine
end

section
/-! Every command answers, changes only the parts its row names, and turns the time base back only under reset (R1). -/

namespace Sys2Proof.Machine

open Sys2Proof

/-- Every command answers a next state, which is the present one with some time passed but for the parts that its row changes. -/
theorem exec_answers (c : Instr) (s : State) : ∃ t, exec c s = .next t ∧ KeepsLater (changes c) s t := by
  cases c with
  | resetAssert w => exact keepsLater_resetAssert w s
  | resetEnd straps => exact ⟨_, rfl, KeepsLater.ite fun _ => (keeps_endReset straps s).later⟩
  | readAttempt response => exact ⟨_, rfl, KeepsLater.ite fun _ => (keeps_startUp _ _).afterArrival⟩
  | readOutcome octets => exact keepsLater_readOutcome octets s
  | settlingWaitExpiry => exact keepsLater_settlingWaitExpiry s
  | sensorEdge i stamp =>
    refine ⟨_, rfl, ?_⟩
    split
    · exact KeepsLater.refl
    · exact (keeps_setSensor _ _ _).afterArrival
  | gateWindowEnd i =>
    refine ⟨_, rfl, ?_⟩
    split
    · exact KeepsLater.refl
    · exact (keeps_endWindow _ _ _).afterArrival
  | lineIdle => exact ⟨_, rfl, KeepsLater.ite fun _ => (keeps_becomeIdle _ _).afterArrival⟩
  | stuckDominant => exact ⟨_, rfl, KeepsLater.ite fun _ => (keeps_stick _ _).afterArrival⟩
  | frameStart =>
    exact ⟨_, rfl, KeepsLater.ite fun _ =>
      (((keeps_setLine _ _).mono (by simp [changes])).trans ((keeps_setWire _ _).mono (by simp [changes]))).later⟩
  | arbitrationLoss =>
    refine ⟨_, rfl, KeepsLater.ite fun _ => ?_⟩
    split
    · exact (((keeps_misread _ _ _).mono (by simp [changes])).trans
        ((keeps_setLine _ _).mono (by simp [changes]))).afterArrival
    · exact KeepsLater.refl
  | bitError =>
    refine ⟨_, rfl, KeepsLater.ite fun _ => ?_⟩
    split
    · exact (((keeps_misread _ _ _).mono (by simp [changes])).trans
        ((keeps_abortFlight _ _ _).mono (by simp [changes]))).afterArrival
    · exact KeepsLater.refl
  | frameSent =>
    refine ⟨_, rfl, KeepsLater.ite fun _ => ?_⟩
    split
    · exact (((keeps_setWire _ _).mono (by simp [changes])).trans
        ((keeps_finishSend _).mono (by simp [changes]))).afterArrival
    · exact KeepsLater.refl
  | frameDiscard cause => exact ⟨_, rfl, keepsLater_discard cause s⟩
  | frameReceived kind sender payload => exact keepsLater_frameReceived kind sender payload s
  | clashQuietExpiry =>
    refine ⟨_, rfl, ?_⟩
    split
    · exact KeepsLater.refl
    · exact (((keeps_setLine _ _).mono (by simp [changes])).trans
        ((keeps_request _ _ _ _).mono (by simp [changes]))).afterArrival
  | beaconReceived sender b =>
    exact ⟨_, rfl, keeps_hear _ _ _ _ (by simp [changes]) (by simp [changes]) (by simp [changes])
      fun t => (keeps_takeBeacon sender b t).mono (by simp [changes])⟩
  | capSetting sender c duration => exact ⟨_, rfl, keepsLater_hearCap sender c duration s⟩
  | capCancel sender c => exact ⟨_, rfl, keepsLater_hearCap sender c 0 s⟩
  | queryBadItem => exact ⟨_, rfl, keepsLater_hearDetailQuery _ s (keeps_answer _)⟩
  | faults => exact ⟨_, rfl, keepsLater_hearQuery _ s (keeps_answerFaults _)⟩
  | tile => exact ⟨_, rfl, keepsLater_hearQuery _ s (keeps_answerTile _)⟩
  | tileDetail => exact ⟨_, rfl, keepsLater_hearDetailQuery _ s (keeps_answerTileDetail _)⟩
  | view => exact ⟨_, rfl, keepsLater_hearQuery _ s (keeps_answerView _)⟩
  | levels => exact ⟨_, rfl, keepsLater_hearQuery _ s (keeps_answerLevels _)⟩
  | chain => exact ⟨_, rfl, keepsLater_hearQuery _ s (keeps_answerChain _)⟩
  | line => exact ⟨_, rfl, keepsLater_hearQuery _ s (keeps_answerLine _)⟩
  | beaconBuild =>
    refine ⟨_, rfl, ?_⟩
    split
    · exact KeepsLater.refl
    · split
      · exact KeepsLater.refl
      · exact (keeps_buildBeacon _ _).afterArrival
  | neighbourAging =>
    refine ⟨_, rfl, ?_⟩
    split
    · exact KeepsLater.refl
    · exact (keeps_neighbours _ _).afterArrival
  | capCountdown =>
    refine ⟨_, rfl, ?_⟩
    split
    · exact KeepsLater.refl
    · exact (keeps_cap _ _).afterArrival
  | settlingPass =>
    refine ⟨_, rfl, ?_⟩
    split
    · exact KeepsLater.refl
    · exact (keeps_pass _ _).afterArrival
  | operationStart c => exact ⟨_, rfl, KeepsLater.ite fun _ => (keeps_startHighest c s).later⟩
  | censusComplete c lead =>
    refine ⟨_, rfl, KeepsLater.ite fun _ => ?_⟩
    split
    · exact ((keeps_censusUsable _ _ _).mono (by simp [changes])).afterBit (by simp [changes])
    · exact (keeps_censusDown _ _ _).afterBit (by simp)
  | censusUnusable c straightBack =>
    exact ⟨_, rfl, KeepsLater.ite fun _ => (keeps_censusDown _ _ _).afterBit (by simp)⟩
  | brightnessComplete c lead echo =>
    exact ⟨_, rfl, KeepsLater.ite fun _ => (keeps_endBrightness _ _ _).afterBit (by simp)⟩
  | statusWordComplete c lead word =>
    exact ⟨_, rfl, KeepsLater.ite fun _ => (keeps_setChain _ _ _).afterBit (by simp)⟩
  | sweepComplete c =>
    exact ⟨_, rfl, KeepsLater.ite fun _ => ((((keeps_sweepReport _ _ _).mono (by simp [changes])).trans
      ((keeps_setChain _ _ _).mono (by simp [changes]))).trans
      ((keeps_chainRequest _ _ _ _).mono (by simp [changes]))).later⟩
  | detailComplete c lead echo words =>
    exact ⟨_, rfl, KeepsLater.ite fun _ => (keeps_endDetail _ _ _ _).afterBit (by simp)⟩
  | testComplete c lead returned =>
    exact ⟨_, rfl, KeepsLater.ite fun _ => (keeps_endTest _ _ _).afterBit (by simp)⟩
  | operationTimeout c =>
    exact ⟨_, rfl, KeepsLater.ite fun _ => (keeps_abortOperation _ _).afterBit (by simp)⟩
  | sweepPeriodExpiry c =>
    refine ⟨_, rfl, ?_⟩
    split
    · exact KeepsLater.refl
    · exact (keeps_setChain _ _ _).afterArrival
  | testPeriodExpiry c =>
    refine ⟨_, rfl, ?_⟩
    split
    · exact KeepsLater.refl
    · exact (keeps_setChain _ _ _).afterArrival
  | censusRetryExpiry c =>
    refine ⟨_, rfl, ?_⟩
    split
    · exact KeepsLater.refl
    · exact (keeps_setChain _ _ _).afterArrival
  | pwmPeriodStart p => exact ⟨_, rfl, KeepsLater.ite fun _ => ⟨_, keeps_beginPeriod p _⟩⟩
  | pwmOnTimeEnd p =>
    refine ⟨_, rfl, ?_⟩
    split
    · exact KeepsLater.refl
    · exact KeepsLater.ite fun _ => (keeps_setPort _ _ _).afterArrival
  | collectorTake =>
    refine ⟨_, rfl, KeepsLater.ite fun _ => ?_⟩
    split
    · exact (keeps_take _ _).afterArrival
    · exact KeepsLater.refl
  | faultRaise kind source detail =>
    refine ⟨_, rfl, ?_⟩
    split
    · exact KeepsLater.refl
    · exact keepsLater_takeRequest _ _ _ s
  | faultWithdraw kind source =>
    refine ⟨_, rfl, ?_⟩
    split
    · exact KeepsLater.refl
    · exact keepsLater_takeRequest _ _ _ s
  | faultClearedAging =>
    refine ⟨_, rfl, ?_⟩
    split
    · exact KeepsLater.refl
    · exact (keeps_setFaults _ _).afterArrival
  | deferredReadyAging =>
    refine ⟨_, rfl, ?_⟩
    split
    · exact KeepsLater.refl
    · exact (keeps_responder _ _).afterArrival
  | supplyScan =>
    refine ⟨_, rfl, ?_⟩
    split
    · exact KeepsLater.refl
    · exact (keeps_scanner _ _).afterArrival
  | conversionComplete sample =>
    refine ⟨_, rfl, ?_⟩
    split
    · exact KeepsLater.refl
    · exact (keeps_evaluateSample _ _ _ _).afterArrival
  | lineLeavesIdle => exact ⟨_, rfl, KeepsLater.ite fun _ => (keeps_setWire _ _).later⟩

/-- The frame of a command, for the state that it answers. -/
theorem exec_keepsLater {c : Instr} {s t : State} (h : exec c s = .next t) : KeepsLater (changes c) s t := by
  obtain ⟨u, hu, keeps⟩ := exec_answers c s
  rw [h, Host.Outcome.next.injEq] at hu
  exact hu ▸ keeps

/-- Settles O4, row by row from what the row's own operations keep. -/
theorem commandFrames : Obligations.CommandFrames := by
  unfold Obligations.CommandFrames
  exact fun c s t h => exec_keepsLater h

/-! ### What a frame leaves of the present state -/

section
variable {l : List Part} {s t : State} (h : KeepsLater l s t)
include h

theorem KeepsLater.startUp_eq (hl : Part.startUp ∉ l) : t.startUp = s.startUp := by
  obtain ⟨n, h⟩ := h
  exact (h _ hl).trans (State.passHalves_startUp n s)

theorem KeepsLater.ports_eq (hl : Part.ports ∉ l) : t.ports = s.ports := by
  obtain ⟨n, h⟩ := h
  exact (h _ hl).trans (State.passHalves_ports n s)

theorem KeepsLater.pending_eq (hl : Part.pending ∉ l) : t.pending = s.pending := by
  obtain ⟨n, h⟩ := h
  exact (h _ hl).trans (State.passHalves_pending n s)

/-- Time passes forward, in a row that leaves the time base to it. -/
theorem KeepsLater.timeBase_le (hl : Part.timeBase ∉ l) : s.timeBase ≤ t.timeBase := by
  obtain ⟨n, h⟩ := h
  exact (State.le_passHalves_timeBase n s).trans_eq (h _ hl).symm

end

/-- No row names the queue among its changes. -/
theorem pending_not_mem_changes (c : Instr) : Part.pending ∉ changes c := by cases c <;> simp [changes]

/-- Only the two rows of reset itself set the time base; the others leave it to the passing of time. -/
theorem timeBase_not_mem_changes {c : Instr} (h : ∀ w, c ≠ .resetAssert w) (h' : ∀ straps, c ≠ .resetEnd straps) :
    Part.timeBase ∉ changes c := by
  cases c with
  | resetAssert w => exact absurd rfl (h w)
  | resetEnd straps => exact absurd rfl (h' straps)
  | _ => simp [changes]

/-- Settles O3: RESET_ASSERT leaves the part held, RESET_END acts only on a held one, and any other row lets time pass. -/
theorem everyCommandCompletes : Obligations.EveryCommandCompletes := by
  unfold Obligations.EveryCommandCompletes
  intro c s
  obtain ⟨t, answer, keeps⟩ := exec_answers c s
  refine ⟨t, answer, keeps.pending_eq (pending_not_mem_changes c), ?_⟩
  by_cases begins : ∃ w, c = .resetAssert w
  · obtain ⟨w, rfl⟩ := begins
    cases answer
    exact .inr (.inr rfl)
  by_cases ends : ∃ straps, c = .resetEnd straps
  · obtain ⟨straps, rfl⟩ := ends
    by_cases held : s.startUp.phase = .resetHeld
    · exact .inr (.inl held)
    · rw [show exec (.resetEnd straps) s = .next (if s.startUp.phase = .resetHeld then s.endReset straps else s) from rfl,
        if_neg held] at answer
      cases answer
      exact .inl (Nat.le_refl _)
  · exact .inl (keeps.timeBase_le (timeBase_not_mem_changes (not_exists.mp begins) (not_exists.mp ends)))

/-! ### The ends of reset -/

theorem exec_resetAssert (w : ResetSource) (s : State) :
    exec (.resetAssert w) s = .next (State.held
      ((if s.startUp.phase = .resetHeld then s.startUp.sources else ResetSources.none).add w)
      (causeAfter (s.startUp.phase = .resetHeld) w s.startUp.startCause) s.pending) := by
  simp [exec, execResetAssert]

theorem exec_resetEnd {straps : Addr} {s : State} (h : s.startUp.phase = .resetHeld) :
    exec (.resetEnd straps) s = .next (s.endReset straps) := by
  simp [exec, execResetEnd, h]

/-- The sources that hold reset, with one more. -/
theorem ResetSources.add_eq (r : ResetSources) (w : ResetSource) :
    r.add w = ⟨r.power || decide (w = .power), r.lowVoltage || decide (w = .lowVoltage), r.pin || decide (w = .pin)⟩ := by
  cases w <;> simp [ResetSources.add]

/-- Settles O29: both rows answer the state that they leave, in full. -/
theorem resetBeginsAndEnds : Obligations.ResetBeginsAndEnds := by
  unfold Obligations.ResetBeginsAndEnds
  refine ⟨fun w s => ⟨_, exec_resetAssert w s, rfl, fun released => ?_, fun held => ?_⟩, fun straps s held =>
    ⟨_, exec_resetEnd held, keeps_endReset straps s, rfl, rfl, rfl, rfl⟩⟩
  · simp [State.held, StartUp.resetHeld, causeAfter, released, ResetSources.add_eq, ResetSources.none]
  · simp [State.held, StartUp.resetHeld, causeAfter, held, ResetSources.add_eq]

end Sys2Proof.Machine
end

section
/-! A part held in reset: no command but those of reset itself changes it, and only an assertion of reset leads to it (R199 to R201,
R211). -/

namespace Sys2Proof.Machine

open Sys2Proof

/-! ### Before the blocks are released nothing is heard -/

theorem State.lineAfter_of_not_running {s : State} (h : s.running = false) (levels : List Level) : s.lineAfter levels = none := by
  simp [State.lineAfter, h]

theorem State.hear_of_not_running {s : State} (h : s.running = false) (octets : List Octet) (kind : BitVec 4) (sender : Addr)
    (take : State → State) : s.hear octets kind sender take = s := by
  simp [State.hear, State.lineAfterGood, State.lineAfter_of_not_running h]

theorem State.discard_of_not_running {s : State} (h : s.running = false) (cause : DiscardCause) : s.discard cause = s := by
  have none : s.lineAtDiscard cause = none := by
    cases cause <;> simp [State.lineAtDiscard, State.lineAfterBad, State.lineAfter_of_not_running h]
  simp [State.discard, none]

/-! ### The reset state -/

section
variable (sources : ResetSources) (cause : ResetSource) (pending : List Instr)

@[simp] theorem State.held_phase : (State.held sources cause pending).startUp.phase = .resetHeld := rfl
@[simp] theorem State.held_running : (State.held sources cause pending).running = false := rfl
@[simp] theorem State.held_attemptBegan : (State.held sources cause pending).startUp.attemptBegan = none := rfl
@[simp] theorem State.held_applied : (State.held sources cause pending).startUp.applied = none := rfl
@[simp] theorem State.held_sensor (i : Fin 2) : (State.held sources cause pending).sensors.get i = SensorChannel.reset :=
  Table.get_replicate _ _
@[simp] theorem State.held_line : (State.held sources cause pending).line = LineControl.reset := rfl
@[simp] theorem State.held_neighbours : (State.held sources cause pending).neighbours = NeighbourTable.reset := rfl
@[simp] theorem State.held_settling : (State.held sources cause pending).settling = Settling.reset := rfl
@[simp] theorem State.held_cap : (State.held sources cause pending).cap = ⟨none, none⟩ := rfl
@[simp] theorem State.held_chain (c : Fin 4) : (State.held sources cause pending).chains.get c = Chain.reset :=
  Table.get_replicate _ _
@[simp] theorem State.held_port (p : Fin 4) : (State.held sources cause pending).ports.get p = Port.reset :=
  Table.get_replicate _ _
@[simp] theorem State.held_scanner : (State.held sources cause pending).scanner = Scanner.reset := rfl
@[simp] theorem State.held_faults : (State.held sources cause pending).faults = FaultTable.reset := rfl
@[simp] theorem State.held_responder : (State.held sources cause pending).responder = ⟨none, none⟩ := rfl

/-- A held part hears no frame. -/
theorem State.hear_held (octets : List Octet) (kind : BitVec 4) (sender : Addr) (take : State → State) :
    (State.held sources cause pending).hear octets kind sender take = State.held sources cause pending :=
  State.hear_of_not_running rfl _ _ _ _

theorem State.discard_held (reason : DiscardCause) :
    (State.held sources cause pending).discard reason = State.held sources cause pending :=
  State.discard_of_not_running rfl _

/-- A held part does nothing at any command but those of reset itself: no interval of its runs, no operation is in progress, and its
line controller takes no samples. -/
theorem exec_held {c : Instr} (begins : ∀ w, c ≠ .resetAssert w) (ends : ∀ straps, c ≠ .resetEnd straps) :
    exec c (State.held sources cause pending) = .next (State.held sources cause pending) := by
  cases c with
  | resetAssert w => exact absurd rfl (begins w)
  | resetEnd straps => exact absurd rfl (ends straps)
  | readAttempt => simp [exec, execReadAttempt, StartUp.mayAttempt]
  | readOutcome => simp [exec, execReadOutcome, StartUp.outcome]
  | settlingWaitExpiry => simp [exec, execSettlingWaitExpiry]
  | sensorEdge => simp [exec, execSensorEdge, SensorChannel.reset]
  | gateWindowEnd => simp [exec, execGateWindowEnd, SensorChannel.reset]
  | lineIdle => simp [exec, execLineIdle]
  | stuckDominant => simp [exec, execStuckDominant]
  | frameStart => simp [exec, execFrameStart]
  | arbitrationLoss => simp [exec, execArbitrationLoss]
  | bitError => simp [exec, execBitError]
  | frameSent => simp [exec, execFrameSent]
  | frameDiscard => simp [exec, execFrameDiscard, State.discard_held]
  | frameReceived => simp [exec, execFrameReceived, State.hear_held, State.discard_held]
  | clashQuietExpiry => simp [exec, execClashQuietExpiry, LineControl.reset]
  | beaconReceived => simp [exec, execBeaconReceived, State.hear_held]
  | capSetting => simp [exec, execCapSetting, State.hearCap, State.hear_held]
  | capCancel => simp [exec, execCapCancel, State.hearCap, State.hear_held]
  | queryBadItem => simp [exec, execQueryBadItem, State.hearQuery, State.hear_held]
  | faults => simp [exec, execFaults, State.hearQuery, State.hear_held]
  | tile => simp [exec, execTile, State.hearQuery, State.hear_held]
  | tileDetail => simp [exec, execTileDetail, State.hearQuery, State.hear_held]
  | view => simp [exec, execView, State.hearQuery, State.hear_held]
  | levels => simp [exec, execLevels, State.hearQuery, State.hear_held]
  | chain => simp [exec, execChain, State.hearQuery, State.hear_held]
  | line => simp [exec, execLine, State.hearQuery, State.hear_held]
  | beaconBuild => simp [exec, execBeaconBuild, LineControl.reset]
  | neighbourAging => simp [exec, execNeighbourAging, NeighbourTable.reset]
  | capCountdown => simp [exec, execCapCountdown]
  | settlingPass => simp [exec, execSettlingPass, Settling.reset]
  | operationStart => simp [exec, execOperationStart]
  | censusComplete => simp [exec, execCensusComplete]
  | censusUnusable => simp [exec, execCensusUnusable]
  | brightnessComplete => simp [exec, execBrightnessComplete, State.runs]
  | statusWordComplete => simp [exec, execStatusWordComplete, State.runs]
  | sweepComplete => simp [exec, execSweepComplete]
  | detailComplete => simp [exec, execDetailComplete, State.runs]
  | testComplete => simp [exec, execTestComplete, State.runs]
  | operationTimeout => simp [exec, execOperationTimeout]
  | sweepPeriodExpiry => simp [exec, execSweepPeriodExpiry, Chain.reset]
  | testPeriodExpiry => simp [exec, execTestPeriodExpiry, Chain.reset]
  | censusRetryExpiry => simp [exec, execCensusRetryExpiry, Chain.reset]
  | pwmPeriodStart => simp [exec, execPwmPeriodStart]
  | pwmOnTimeEnd => simp [exec, execPwmOnTimeEnd, Port.reset]
  | collectorTake => simp [exec, execCollectorTake]
  | faultRaise => simp [exec, execFaultRaise]
  | faultWithdraw => simp [exec, execFaultWithdraw]
  | faultClearedAging => simp [exec, execFaultClearedAging, FaultTable.reset]
  | deferredReadyAging => simp [exec, execDeferredReadyAging]
  | supplyScan => simp [exec, execSupplyScan, Scanner.reset]
  | conversionComplete => simp [exec, execConversionComplete, Scanner.reset]
  | lineLeavesIdle => simp [exec, execLineLeavesIdle]

end

/-! ### What start-up's own commands do to the start-up unit -/

theorem exec_readAttempt {response : Option (Fin 8)} {s t : State} (h : exec (.readAttempt response) s = .next t) :
    t = s ∨ (s.startUp.phase = .reading ∧ t = (s.arriveAt (attemptStart s.startUp.attempts)).attempt response) := by
  simp only [exec, execReadAttempt, Host.Outcome.next.injEq] at h
  split at h
  · next may =>
    simp only [StartUp.mayAttempt, Bool.and_eq_true, decide_eq_true_eq] at may
    obtain ⟨⟨reading, -⟩, -⟩ := may
    exact .inr ⟨reading, h.symm⟩
  · exact .inl h.symm

theorem exec_readOutcome {octets : List Octet} {s t : State} (h : exec (.readOutcome octets) s = .next t) :
    t = s ∨ ∃ n block, s.startUp.phase = .reading ∧
      t = ((s.arriveAt n).handOver (appliedOf s.ownAddress block) (block.getD [])).requestAll
        (configRaises (appliedOf s.ownAddress block).raises) := by
  simp only [exec, execReadOutcome, Host.Outcome.next.injEq] at h
  split at h
  · exact .inl h.symm
  · next n block outcome =>
    refine .inr ⟨n, block, ?_, h.symm⟩
    unfold StartUp.outcome at outcome
    split at outcome
    · split at outcome
      · next come =>
        obtain ⟨reading, -⟩ := Bool.and_eq_true_iff.mp come
        simpa using reading
      · cases outcome
    · cases outcome

theorem exec_settlingWaitExpiry {s t : State} (h : exec .settlingWaitExpiry s = .next t) :
    t = s ∨ (s.startUp.phase = .powering ∧
      t = (List.finRange 4).foldl (fun t c => t.startHighest c) (s.arriveAt (s.startUp.waitEnd.getD 0)).release) := by
  simp only [exec, execSettlingWaitExpiry, Host.Outcome.next.injEq] at h
  split at h
  · next powering => exact .inr ⟨powering, h.symm⟩
  · exact .inl h.symm

/-- Starting the chains' operations, one chain after another, leaves the start-up unit as it was. -/
theorem State.startAll_startUp (cs : List (Fin 4)) (s : State) :
    (cs.foldl (fun t c => t.startHighest c) s).startUp = s.startUp :=
  Keeps.foldl (l := [.chains, .responder]) (fun t c => keeps_startHighest c t) cs s .startUp (by simp)

/-- Only an assertion of reset leads to a held part; any other command finds it held, and leaves it as it was. -/
theorem exec_to_held {c : Instr} {s t : State} (begins : ∀ w, c ≠ .resetAssert w) (h : exec c s = .next t)
    (held : t.startUp.phase = .resetHeld) : s.startUp.phase = .resetHeld ∧ ∀ straps, c ≠ .resetEnd straps := by
  cases c with
  | resetAssert w => exact absurd rfl (begins w)
  | resetEnd straps =>
    simp only [exec, execResetEnd, Host.Outcome.next.injEq] at h
    split at h
    · subst h; cases held
    · next released => subst h; exact absurd held released
  | readAttempt response =>
    rcases exec_readAttempt h with rfl | ⟨reading, rfl⟩
    · exact ⟨held, by simp⟩
    · simp [State.attempt, reading] at held
  | readOutcome octets =>
    rcases exec_readOutcome h with rfl | ⟨n, block, -, rfl⟩
    · exact ⟨held, by simp⟩
    · simp [State.handOver] at held
  | settlingWaitExpiry =>
    rcases exec_settlingWaitExpiry h with rfl | ⟨-, rfl⟩
    · exact ⟨held, by simp⟩
    · rw [State.startAll_startUp] at held
      cases held
  | _ =>
    rw [(exec_keepsLater h).startUp_eq (by simp [changes])] at held
    exact ⟨held, by simp⟩

/-! ### Steps -/

/-- One step lets a microsecond pass, or runs the command at the front of the queue on the state with the queue's rest. -/
theorem step_cases {s t : State} (h : step s = .next t) :
    (s.pending = [] ∧ t = s.passTime 1) ∨
      ∃ c rest, s.pending = c :: rest ∧ exec c { s with pending := rest } = .next t := by
  unfold step at h
  split at h
  · next e => cases h; exact .inl ⟨e, rfl⟩
  · next c rest e => exact .inr ⟨c, rest, e, h⟩

/-- A property that holds whatever waits, that time keeps and that every command keeps, every step keeps. -/
theorem keptByStep_of_exec {Inv : State → Prop} (queue : ∀ s rest, Inv s → Inv { s with pending := rest })
    (time : ∀ s, Inv s → Inv (s.passTime 1)) (command : ∀ c s t, Inv s → exec c s = .next t → Inv t) : KeptByStep Inv := by
  intro s t inv h
  rcases step_cases h with ⟨-, rfl⟩ | ⟨c, rest, -, h⟩
  · exact time s inv
  · exact command c _ t (queue s rest inv) h

theorem heldIsReset_exec {c : Instr} {s t : State} (inv : HeldIsReset s) (h : exec c s = .next t) : HeldIsReset t := by
  intro held
  by_cases begins : ∃ w, c = .resetAssert w
  · obtain ⟨w, rfl⟩ := begins
    cases h
    rfl
  · obtain ⟨was, ends⟩ := exec_to_held (not_exists.mp begins) h held
    have idle := exec_held s.startUp.sources s.startUp.startCause s.pending (not_exists.mp begins) ends
    rw [← inv was, h, Host.Outcome.next.injEq] at idle
    subst idle
    exact inv held

/-- Settles O7: a held part does nothing but at the commands of reset, and only RESET_ASSERT leads to one. -/
theorem stepKeepsResetState : Obligations.StepKeepsResetState := by
  unfold Obligations.StepKeepsResetState
  refine keptByStep_of_exec (fun s rest inv held => ?_) (fun s inv held => ?_) fun c s t => heldIsReset_exec
  · exact congrArg (fun u : State => { u with pending := rest }) (inv held)
  · have was : s.startUp.phase = .resetHeld := by simpa using held
    rw [State.passTime_held 1 s was]
    exact inv was

end Sys2Proof.Machine
end

section
/-! What the passing of time changes and leaves (R1, R2, R32, R33, R134, R140). -/

namespace Sys2Proof.Machine

open Sys2Proof

/-- What time can change: the time base, the PWM count, the bit counts and the samples of the line. -/
theorem keeps_passHalves (n : Nat) (s : State) : Keeps [.timeBase, .pwmCount, .chains, .wire] s (s.passHalves n) := by
  intro p hp; cases p <;> simp_all [Part.agrees]

/-- Before the blocks are released time changes the time base at most (R1). -/
theorem keeps_passHalves_unreleased (n : Nat) {s : State} (h : s.running = false) :
    Keeps [.timeBase] s (s.passHalves n) := by
  by_cases hp : s.startUp.phase = .resetHeld
  · rw [State.passHalves_held n s hp]; exact Keeps.refl
  · rw [State.passHalves_unreleased n s h hp]
    intro p hp; cases p <;> simp_all [Part.agrees]

theorem State.half_of_running {s : State} (h : s.running = true) : s.half = s.pwmCount / 8 % 2 := by
  simp [State.half, h, Config.pwmPerHalf]

/-- The samples of an own frame: its bits from the start bit on, each at its middle, as many as have come (R32). -/
theorem State.sampledBy_sending {s : State} {f : Flight} (t : Nat) (h : s.line.sending = true) (hf : s.line.flight = some f) :
    s.sampledBy t = LineSamples.readFrom s.bitTime (s.line.startedAt + s.bitTime / 2)
      (f.frame.levels.take ((t + s.bitTime / 2 - s.line.startedAt) / s.bitTime)) (LineSamples.atStart s.line.startedAt) := by
  simp [State.sampledBy, h, State.ownRead, State.bitMiddle, LineControl.sentLevels, hf, ownSamples]

theorem State.sampledBy_quiet {s : State} (t : Nat) (h : s.line.sending = false) (hq : s.wire.quiet = true) :
    s.sampledBy t = s.wire.restUntil s.bitTime t := by
  simp [State.sampledBy, h, hq]

theorem State.sampledBy_heard {s : State} (t : Nat) (h : s.line.sending = false) (hq : s.wire.quiet = false) :
    s.sampledBy t = s.wire.heardUntil s.bitTime t (t - s.wire.sampledAt) := by
  simp [State.sampledBy, h, hq]

/-- Settles O2: time under reset, before the release, and after it. -/
theorem timePasses : Obligations.TimePasses := by
  unfold Obligations.TimePasses
  intro s
  refine ⟨fun empty => by simp [step, empty], fun _ => rfl, fun n held => State.passHalves_held n s held,
    fun n free => ⟨State.passTime_timeBase n s free, State.arriveAt_timeBase s n free, ⟨_, rfl⟩, keeps_passHalves n s⟩,
    fun n still => keeps_passHalves_unreleased n still, ?_⟩
  rintro n now bit pos run rfl rfl
  rw [State.passHalves_released n s run pos, State.half_of_running run]
  refine ⟨rfl, rfl, fun f sending flight => State.sampledBy_sending _ sending flight, ?_,
    fun quiet other => State.sampledBy_heard _ quiet other, fun c => ?_⟩
  · rintro m silent quiet rfl
    exact State.sampledBy_quiet _ silent quiet
  · rw [Table.get_map]
    unfold Chain.runBits
    split <;> rfl

end Sys2Proof.Machine
end

section
/-! The ports: their supplies, their PWM lines and the shared PWM count (R2, R8, R114, R140). -/

namespace Sys2Proof.Machine

open Sys2Proof

/-! ### The start and the end of an on-time -/

/-- The wait of a port for its period is at most one whole period; the shared count stands at the port's place after it, and at no
moment before (R140). -/
theorem State.untilPeriod_spec (p : Fin 4) {s : State} (h : s.pwmCount < 4096) (h8 : s.pwmCount % 8 = 0) :
    s.untilPeriod p ≤ 512 ∧ (s.pwmCount + 8 * s.untilPeriod p) % 4096 = p.val * 1024 ∧
      ∀ e, 0 < e → e < s.untilPeriod p → (s.pwmCount + 8 * e) % 4096 ≠ p.val * 1024 := by
  have place : p.val ≤ 3 := by omega
  unfold State.untilPeriod
  simp only [Config.pwmStagger, Config.pwmPeriod, Config.pwmPerHalf]
  generalize p.val = q at place
  obtain ⟨m, count⟩ : ∃ m, s.pwmCount = 8 * m := ⟨s.pwmCount / 8, by omega⟩
  have wait : (q * 1024 + 4096 - s.pwmCount) % 4096 / 8 = (128 * q + 512 - m) % 512 := by omega
  have after : ∀ e, (s.pwmCount + 8 * e) % 4096 = 8 * ((m + e) % 512) := fun e => by omega
  simp only [wait, after, Bool.and_eq_true, decide_eq_true_eq]
  clear wait after
  split
  · next again =>
    obtain ⟨none, -⟩ := again
    have here : m = 128 * q := by omega
    exact ⟨by omega, by omega, fun e _ _ => by omega⟩
  · exact ⟨by omega, by omega, fun e _ _ => by omega⟩

/-- The PWM count after a spell of time, once the blocks are released; that it stays as it is in a spell of no time needs it to be in
range (R2, R140). -/
theorem State.passHalves_pwmCount {s : State} (n : Nat) (run : s.running = true) (h : s.pwmCount < 4096) :
    (s.passHalves n).pwmCount = (s.pwmCount + 8 * n) % 4096 := by
  rcases Nat.eq_zero_or_pos n with rfl | pos
  · rw [State.passHalves_zero]; omega
  · rw [State.passHalves_released n s run pos]; rfl

/-- The on-time of a port is that of the duty word of the chain joined to it (R8, R140). -/
theorem State.portOnTime_eq {s : State} {p c : Fin 4} (h : s.chainOnPort p = some c) :
    s.portOnTime p = (s.chains.get c).duty.getD 0 / 16 := by
  unfold State.portOnTime
  simp only [h]
  cases (s.chains.get c).duty <;> rfl

@[simp] theorem State.passHalves_duty (n : Nat) (s : State) (c : Fin 4) :
    ((s.passHalves n).chains.get c).duty = (s.chains.get c).duty := by
  rw [State.passHalves_chain_eq]

theorem exec_pwmPeriodStart (p : Fin 4) (s : State) : exec (.pwmPeriodStart p) s =
    .next (if s.running && (s.chainOnPort p).isSome then (s.passHalves (s.untilPeriod p)).beginPeriod p else s) := rfl

theorem exec_pwmOnTimeEnd {p : Fin 4} {s : State} {b : Nat} (begun : (s.ports.get p).periodStart = some b)
    (active : (s.ports.get p).lineActive = true) :
    exec (.pwmOnTimeEnd p) s = .next ((s.arriveAt (b + (s.ports.get p).onTime / 16)).setPort p
      { s.ports.get p with lineActive := false }) := by
  simp [exec, execPwmOnTimeEnd, begun, active, Config.pwmPerMicro]

/-- Settles O54: the wait for the port's place in the shared count, and the on-time taken there. -/
theorem pwmLinesFollowDuty : Obligations.PwmLinesFollowDuty := by
  unfold Obligations.PwmLinesFollowDuty
  constructor
  · intro p c s run joined range whole
    obtain ⟨most, reached, first⟩ := State.untilPeriod_spec p range whole
    refine ⟨(s.passHalves (s.untilPeriod p)).beginPeriod p, s.untilPeriod p, ?_, most, keeps_beginPeriod p _, ?_, first,
      fun q other => ?_, ?_⟩
    · rw [exec_pwmPeriodStart, run, joined]; rfl
    · exact (State.passHalves_pwmCount _ run range).trans reached
    · simp [State.beginPeriod, Table.get_set_other _ _ other]
    · have onTime : (s.passHalves (s.untilPeriod p)).portOnTime p = (s.chains.get c).duty.getD 0 / 16 := by
        rw [State.portOnTime_eq (c := c) (by simpa using joined), State.passHalves_duty]
      simp [State.beginPeriod, onTime]
  · intro p s b begun active
    exact ⟨_, exec_pwmOnTimeEnd begun active, keeps_setPort _ _ _, fun q other => by simp [Table.get_set_other _ _ other],
      by simp⟩

end Sys2Proof.Machine
end

section
/-! The duty words of the chains: only a settling pass and a reset set them (R100, R142). -/

namespace Sys2Proof.Machine

open Sys2Proof

/-! ### The duty word of a chain through its operations -/

@[simp] theorem Chain.begin_duty (op : ChainState) (ch : Chain) : (ch.begin op).duty = ch.duty := rfl
@[simp] theorem Chain.finish_duty (ch : Chain) : ch.finish.duty = ch.duty := rfl
@[simp] theorem Chain.startCensus_duty (ch : Chain) : ch.startCensus.duty = ch.duty := rfl
@[simp] theorem Chain.startBrightness_duty (ch : Chain) : ch.startBrightness.duty = ch.duty := rfl
@[simp] theorem Chain.startDetail_duty (ch : Chain) : ch.startDetail.duty = ch.duty := rfl
@[simp] theorem Chain.startSweep_duty (ch : Chain) : ch.startSweep.duty = ch.duty := rfl
@[simp] theorem Chain.startTest_duty (ch : Chain) : ch.startTest.duty = ch.duty := rfl
@[simp] theorem Chain.clearDetail_duty (ch : Chain) : ch.clearDetail.duty = ch.duty := rfl
@[simp] theorem Chain.unusable_duty (count : Option Nat) (retry : Nat) (ch : Chain) :
    (ch.unusable count retry).duty = ch.duty := rfl
@[simp] theorem Chain.postCensus_duty (ch : Chain) : ch.postCensus.duty = ch.duty := by
  unfold Chain.postCensus; split <;> rfl
@[simp] theorem Chain.postSweep_duty (ch : Chain) : ch.postSweep.duty = ch.duty := by
  unfold Chain.postSweep; split <;> rfl
@[simp] theorem Chain.postTest_duty (ch : Chain) : ch.postTest.duty = ch.duty := by
  unfold Chain.postTest; split <;> rfl
@[simp] theorem Chain.postBrightness_duty (value : Nat) (ch : Chain) : (ch.postBrightness value).duty = ch.duty := by
  unfold Chain.postBrightness; split <;> rfl
@[simp] theorem Chain.postDetail_duty (position : Nat) (ch : Chain) : (ch.postDetail position).duty = ch.duty := by
  unfold Chain.postDetail; split <;> rfl
@[simp] theorem Chain.usable_duty (count : Nat) (ch : Chain) : (ch.usable count).duty = ch.duty := by
  unfold Chain.usable; dsimp only; split <;> simp
@[simp] theorem Chain.echoed_duty (echo : BitVec 32) (ch : Chain) : (ch.echoed echo).duty = ch.duty := by
  unfold Chain.echoed; dsimp only; split
  · rfl
  · split <;> simp
@[simp] theorem Chain.wordDone_duty (present : Bool) (word : BitVec 32) (ch : Chain) :
    (ch.wordDone present word).duty = ch.duty := by
  unfold Chain.wordDone; dsimp only; split
  · rfl
  · split <;> rfl
@[simp] theorem Chain.taken_duty (ch : Chain) : ch.taken.duty = ch.duty := by
  unfold Chain.taken; split <;> rfl
@[simp] theorem Chain.powered_duty (used : Bool) (ch : Chain) : (ch.powered used).duty = ch.duty := by
  unfold Chain.powered; split <;> rfl

/-! ### The duty words of a state -/

/-- Every chain has the same duty word in both states. -/
def SameDuties (s t : State) : Prop := ∀ c, (t.chains.get c).duty = (s.chains.get c).duty

theorem SameDuties.refl (s : State) : SameDuties s s := fun _ => rfl

theorem SameDuties.trans {s t u : State} (h : SameDuties s t) (k : SameDuties t u) : SameDuties s u :=
  fun c => (k c).trans (h c)

theorem SameDuties.ite {b : Prop} [Decidable b] {s t u : State} (h : SameDuties s t) (k : SameDuties s u) :
    SameDuties s (if b then t else u) := by
  split
  · exact h
  · exact k

theorem Keeps.sameDuties {l : List Part} {s t : State} (h : Keeps l s t) (hl : Part.chains ∉ l) : SameDuties s t :=
  fun c => congrArg (fun cs => (Table.get cs c).duty) (h _ hl)

theorem sameDuties_passHalves (n : Nat) (s : State) : SameDuties s (s.passHalves n) := State.passHalves_duty n s

theorem KeepsLater.sameDuties {l : List Part} {s t : State} (h : KeepsLater l s t) (hl : Part.chains ∉ l) : SameDuties s t := by
  obtain ⟨n, h⟩ := h
  exact (sameDuties_passHalves n s).trans (h.sameDuties hl)

theorem sameDuties_setChain {c : Fin 4} {x : Chain} {s : State} (h : x.duty = (s.chains.get c).duty) :
    SameDuties s (s.setChain c x) := by
  intro d
  rw [State.setChain_chains, Table.get_set]
  split
  · next e => rw [e, h]
  · rfl

theorem sameDuties_arriveAt (t : Nat) (s : State) : SameDuties s (s.arriveAt t) := sameDuties_passHalves _ s

theorem sameDuties_reachBit (c : Fin 4) (k : Nat) (s : State) : SameDuties s (s.reachBit c k) :=
  (sameDuties_passHalves _ s).trans (sameDuties_setChain rfl)

theorem sameDuties_chainRequest (c : Fin 4) (kind : FaultKind) (action : FaultAction) (s : State) :
    SameDuties s (s.chainRequest c kind action) := fun _ => rfl

theorem sameDuties_detailOutcome (words : Option DetailWords) (s : State) : SameDuties s (s.detailOutcome words) :=
  (keeps_detailOutcome words s).sameDuties (by simp)

theorem sameDuties_markChain (c : Fin 4) (n : Nat) (s : State) : SameDuties s (s.markChain c n) :=
  (keeps_markChain c n s).sameDuties (by simp)

theorem sameDuties_startHighest (c : Fin 4) (s : State) : SameDuties s (s.startHighest c) := by
  rcases State.startHighest_cases c s with h | ⟨-, -, h⟩ | ⟨-, -, ⟨-, h⟩ | ⟨-, -, ⟨-, h⟩ | ⟨-, h⟩⟩ |
    ⟨-, -, ⟨-, h⟩ | ⟨-, -, h⟩⟩⟩ <;> rw [h]
  · exact SameDuties.refl s
  · exact sameDuties_setChain rfl
  · exact sameDuties_setChain rfl
  · exact sameDuties_setChain rfl
  · exact (sameDuties_setChain (by simp)).trans (sameDuties_detailOutcome _ _)
  · exact sameDuties_setChain rfl
  · exact sameDuties_setChain rfl

theorem sameDuties_postDetail (c : Fin 4) (position : Nat) (s : State) : SameDuties s (s.postDetail c position) :=
  SameDuties.ite (sameDuties_detailOutcome _ s) (sameDuties_setChain (by simp))

theorem sameDuties_firstAsk (q : Query) (i : Fin 64) (s : State) : SameDuties s (s.firstAsk q i) :=
  SameDuties.ite ((keeps_reply _ _ _ _).sameDuties (by simp))
    ((((keeps_setDeferred _ s).sameDuties (by simp)).trans (sameDuties_postDetail _ _ _)).trans
      ((keeps_reply _ _ _ _).sameDuties (by simp)))

theorem sameDuties_answerTileDetail (q : Query) (s : State) : SameDuties s (s.answerTileDetail q) := by
  unfold State.answerTileDetail
  split
  · split
    · exact sameDuties_firstAsk q _ s
    · exact (keeps_askAgain q _ s).sameDuties (by simp)
  · exact (keeps_answerBadItem q s).sameDuties (by simp)

theorem sameDuties_answer (q : Query) (s : State) : SameDuties s (s.answer q) := by
  unfold State.answer
  split
  · exact (keeps_answerFaults q s).sameDuties (by simp)
  · exact (keeps_answerTile q s).sameDuties (by simp)
  · exact sameDuties_answerTileDetail q s
  · exact (keeps_answerView q s).sameDuties (by simp)
  · exact (keeps_answerLevels q s).sameDuties (by simp)
  · exact (keeps_answerChain q s).sameDuties (by simp)
  · exact (keeps_answerLine q s).sameDuties (by simp)
  · exact (keeps_answerBadItem q s).sameDuties (by simp)

theorem sameDuties_handOn (kind : BitVec 4) (sender : Addr) (payload : List Octet) (s : State) :
    SameDuties s (s.handOn kind sender payload) := by
  unfold State.handOn
  split
  · split
    · exact (keeps_takeBeacon _ _ s).sameDuties (by simp)
    · exact SameDuties.refl s
  · split
    · exact (keeps_takeCap _ _ _ s).sameDuties (by simp)
    · exact SameDuties.refl s
  · split
    · exact SameDuties.ite (sameDuties_answer _ s) (SameDuties.refl s)
    · exact SameDuties.refl s
  · exact SameDuties.refl s

/-- A frame heard leaves the duty words as what it is handed on to does. -/
theorem sameDuties_hear (octets : List Octet) (kind : BitVec 4) (sender : Addr) {take : State → State} (s : State)
    (h : ∀ t, SameDuties t (take t)) : SameDuties s (s.hear octets kind sender take) := by
  rcases State.hear_cases octets kind sender take s with ⟨-, e⟩ | ⟨w, -, e⟩
  · rw [e]; exact SameDuties.refl s
  · have counted : SameDuties s (s.arriveWith w).countGood := sameDuties_arriveAt w.sampledAt s
    rcases e with ⟨-, -, e⟩ | ⟨-, e⟩ <;> rw [e]
    · exact counted
    · exact counted.trans (h _)

theorem sameDuties_hearQuery (q : Query) {respond : State → State} (s : State) (h : ∀ t, SameDuties t (respond t)) :
    SameDuties s (s.hearQuery q respond) :=
  sameDuties_hear _ _ _ s fun t => SameDuties.ite (h t) (SameDuties.refl t)

theorem sameDuties_censusUsable (c : Fin 4) (count : Nat) (s : State) : SameDuties s (s.censusUsable c count) :=
  (sameDuties_markChain c _ (((s.chainRequest c _ _).chainRequest c _ _).chainRequest c _ _)).trans
    (sameDuties_setChain (by simp))

theorem sameDuties_censusDown (c : Fin 4) (straightBack : Bool) (s : State) :
    SameDuties s (s.censusDown c straightBack) := by
  have down : SameDuties s _ :=
    ((sameDuties_setChain (Chain.unusable_duty (if straightBack then some 0 else none)
      (s.timeBase + Config.censusRetry) (s.chains.get c))).trans (sameDuties_markChain c 0 _)).trans
      (sameDuties_chainRequest c .chainDown (.raise (some (if straightBack then 0 else 0xFFFF))) _)
  exact SameDuties.ite (down.trans (sameDuties_detailOutcome none _)) down

theorem sameDuties_endBrightness (c : Fin 4) (echo : BitVec 32) (s : State) : SameDuties s (s.endBrightness c echo) := by
  have echoed : SameDuties s (s.setChain c ((s.chains.get c).echoed echo)) := sameDuties_setChain (by simp)
  exact (SameDuties.ite (echoed.trans (sameDuties_chainRequest _ _ _ _)) echoed).trans (sameDuties_chainRequest _ _ _ _)

theorem sameDuties_endDetail (c : Fin 4) (echo : BitVec 32) (words : DetailWords) (s : State) :
    SameDuties s (s.endDetail c echo words) :=
  ((sameDuties_setChain (by simp)).trans (sameDuties_detailOutcome _ _)).trans (sameDuties_chainRequest _ _ _ _)

theorem sameDuties_endTest (c : Fin 4) (mismatches : Nat) (s : State) : SameDuties s (s.endTest c mismatches) :=
  sameDuties_setChain (by simp)

theorem sameDuties_abortOperation (c : Fin 4) (s : State) : SameDuties s (s.abortOperation c) := by
  have reported : SameDuties s (if (s.chains.get c).state = .sweep then s.sweepReport c (s.chains.get c).entered else s) :=
    SameDuties.ite ((keeps_sweepReport _ _ s).sameDuties (by simp)) (SameDuties.refl s)
  have failed := reported.trans (SameDuties.ite
    (b := ((s.chains.get c).state = .detail || (s.chains.get c).pend.detail) = true)
    (sameDuties_detailOutcome none _) (SameDuties.refl _))
  have asked := failed.trans (sameDuties_chainRequest c .chainTimeout
    (.raise (some (BitVec.ofNat 16 (timeoutCode (s.chains.get c).state)))) _)
  exact asked.trans (sameDuties_setChain ((Chain.postCensus_duty _).trans (asked c).symm))

theorem sameDuties_take (c : Fin 4) (s : State) : SameDuties s (s.take c) := by
  have taken : SameDuties s (s.setChain c (s.chains.get c).taken) := sameDuties_setChain (by simp)
  unfold State.take
  dsimp only
  split
  · exact taken
  · exact taken.trans ((keeps_handleWord c _ _).sameDuties (by simp))

theorem sameDuties_handOver (a : Applied) (octets : List Octet) (s : State) : SameDuties s (s.handOver a octets) := by
  intro c
  simp [State.handOver]

theorem sameDuties_release (s : State) : SameDuties s s.release := by
  intro c
  simp only [State.release, Table.get_mapWithIndex]
  split <;> rfl

theorem sameDuties_startAll (cs : List (Fin 4)) (s : State) : SameDuties s (cs.foldl (fun t c => t.startHighest c) s) := by
  induction cs generalizing s with
  | nil => exact SameDuties.refl s
  | cons c rest ih => exact (sameDuties_startHighest c s).trans (ih _)

/-- Every command but RESET_ASSERT and SETTLING_PASS leaves the duty words as they are. -/
theorem exec_sameDuties {c : Instr} {s t : State} (begins : ∀ w, c ≠ .resetAssert w) (pass : c ≠ .settlingPass)
    (h : exec c s = .next t) : SameDuties s t := by
  cases c with
  | resetAssert w => exact absurd rfl (begins w)
  | settlingPass => exact absurd rfl pass
  | readOutcome octets =>
    rcases exec_readOutcome h with rfl | ⟨n, block, -, rfl⟩
    · exact SameDuties.refl _
    · exact ((sameDuties_arriveAt n s).trans (sameDuties_handOver _ _ _)).trans
        ((keeps_requestAll _ _).sameDuties (by simp))
  | settlingWaitExpiry =>
    rcases exec_settlingWaitExpiry h with rfl | ⟨-, rfl⟩
    · exact SameDuties.refl _
    · exact ((sameDuties_arriveAt _ s).trans (sameDuties_release _)).trans (sameDuties_startAll _ _)
  | frameReceived kind sender payload =>
    cases h
    exact SameDuties.ite (sameDuties_hear _ _ _ s (sameDuties_handOn _ _ _))
      ((keepsLater_discard _ s).sameDuties (by simp))
  | queryBadItem => cases h; exact sameDuties_hearQuery _ s (sameDuties_answer _)
  | tileDetail => cases h; exact sameDuties_hearQuery _ s (sameDuties_answerTileDetail _)
  | operationStart c => cases h; exact SameDuties.ite (sameDuties_startHighest c s) (SameDuties.refl s)
  | censusComplete c lead =>
    cases h
    exact SameDuties.ite (SameDuties.ite
      ((sameDuties_reachBit c _ s).trans (sameDuties_censusUsable c _ _))
      ((sameDuties_reachBit c _ s).trans (sameDuties_censusDown c _ _))) (SameDuties.refl s)
  | censusUnusable c straightBack =>
    cases h
    exact SameDuties.ite ((sameDuties_reachBit c _ s).trans (sameDuties_censusDown c _ _)) (SameDuties.refl s)
  | brightnessComplete c lead echo =>
    cases h
    exact SameDuties.ite ((sameDuties_reachBit c _ s).trans (sameDuties_endBrightness c _ _)) (SameDuties.refl s)
  | statusWordComplete c lead word =>
    cases h
    exact SameDuties.ite ((sameDuties_reachBit c _ s).trans (sameDuties_setChain (by simp))) (SameDuties.refl s)
  | sweepComplete c =>
    cases h
    exact SameDuties.ite ((((keeps_sweepReport c _ s).sameDuties (by simp)).trans (sameDuties_setChain (by rfl))).trans
      (sameDuties_chainRequest c _ _ _)) (SameDuties.refl s)
  | detailComplete c lead echo words =>
    cases h
    exact SameDuties.ite ((sameDuties_reachBit c _ s).trans (sameDuties_endDetail c _ _ _)) (SameDuties.refl s)
  | testComplete c lead returned =>
    cases h
    exact SameDuties.ite ((sameDuties_reachBit c _ s).trans (sameDuties_endTest c _ _)) (SameDuties.refl s)
  | operationTimeout c =>
    cases h
    exact SameDuties.ite ((sameDuties_reachBit c _ s).trans (sameDuties_abortOperation c _)) (SameDuties.refl s)
  | sweepPeriodExpiry c =>
    cases h
    split
    · exact SameDuties.refl s
    · exact (sameDuties_arriveAt _ s).trans (sameDuties_setChain (by simp))
  | testPeriodExpiry c =>
    cases h
    split
    · exact SameDuties.refl s
    · exact (sameDuties_arriveAt _ s).trans (sameDuties_setChain (by simp))
  | censusRetryExpiry c =>
    cases h
    split
    · exact SameDuties.refl s
    · exact (sameDuties_arriveAt _ s).trans (sameDuties_setChain (by simp))
  | collectorTake =>
    cases h
    refine SameDuties.ite ?_ (SameDuties.refl s)
    split
    · exact (sameDuties_arriveAt _ s).trans (sameDuties_take _ _)
    · exact SameDuties.refl s
  | _ => exact (exec_keepsLater h).sameDuties (by simp [changes])

end Sys2Proof.Machine
end

section
/-! Every step keeps the port supplies, the PWM lines and the shared PWM count sound (R2, R8, R114, R140). -/

namespace Sys2Proof.Machine

open Sys2Proof

/-- The shared PWM count stands at a half of a microsecond (R2; log entry 16). -/
def PwmSound (s : State) : Prop := s.pwmCount < 4096 ∧ s.pwmCount % 8 = 0

/-- No duty word is above 65535. -/
def DutiesSound (s : State) : Prop := ∀ c d, (s.chains.get c).duty = some d → d ≤ 65535

/-- One port of a sound state. -/
def PortSound (s : State) (p : Fin 4) : Prop :=
  ((s.ports.get p).supplyOn = true ↔ s.chainOnPort p ≠ none) ∧
    ((s.ports.get p).lineActive = true →
      s.chainOnPort p ≠ none ∧ 1 ≤ (s.ports.get p).onTime ∧ (s.ports.get p).periodStart ≠ none) ∧
    (s.ports.get p).onTime ≤ 4095

theorem portsSound_iff {s : State} :
    PortsSound s ↔ AppliedAfterReading s ∧ PwmSound s ∧ DutiesSound s ∧ ∀ p, PortSound s p := Iff.rfl

/-! ### The parts one by one -/

theorem PwmSound.passHalves {s : State} (h : PwmSound s) (n : Nat) : PwmSound (s.passHalves n) := by
  obtain ⟨range, whole⟩ := h
  cases run : s.running
  · rw [PwmSound, keeps_passHalves_unreleased n run .pwmCount (by simp)]
    exact ⟨range, whole⟩
  · rw [PwmSound, State.passHalves_pwmCount n run range]
    omega

/-- The PWM count stays sound in a row that leaves it to the passing of time. -/
theorem PwmSound.later {l : List Part} {s t : State} (h : PwmSound s) (k : KeepsLater l s t) (hl : Part.pwmCount ∉ l) :
    PwmSound t := by
  obtain ⟨n, k⟩ := k
  rw [PwmSound, k .pwmCount hl]
  exact h.passHalves n

theorem DutiesSound.same {s t : State} (h : DutiesSound s) (k : SameDuties s t) : DutiesSound t :=
  fun c d e => h c d ((k c).symm.trans e)

/-- The chain on a port follows from the values applied (R114, R115). -/
theorem State.chainOnPort_congr {s t : State} (h : t.startUp.applied = s.startUp.applied) (p : Fin 4) :
    t.chainOnPort p = s.chainOnPort p := by
  have used : ∀ c, t.used c = s.used c := fun c => by unfold State.used; rw [h]
  have options : t.options = s.options := congrArg (fun a => Option.getD a defaultOptions) h
  simp only [State.chainOnPort, used, options]

theorem PortSound.congr {s t : State} {p : Fin 4} (h : PortSound s p) (ports : t.ports = s.ports)
    (applied : t.startUp.applied = s.startUp.applied) : PortSound t p := by
  unfold PortSound
  rw [ports, State.chainOnPort_congr applied]
  exact h

/-- No chain is used while nothing is applied (R114). -/
theorem State.chainOnPort_of_unapplied {s : State} (h : s.startUp.applied = none) (p : Fin 4) : s.chainOnPort p = none := by
  simp [State.chainOnPort, State.used, h]

/-- A part held in reset has all its ports off. -/
theorem portsSound_held (sources : ResetSources) (cause : ResetSource) (pending : List Instr) :
    PortsSound (State.held sources cause pending) :=
  have unused := State.chainOnPort_of_unapplied (State.held_applied sources cause pending)
  ⟨fun _ => rfl, ⟨show 0 < 4096 by decide, rfl⟩, fun c d h => by simp [Chain.reset] at h,
    fun p => by simp [Port.reset, unused p]⟩

/-! ### The commands -/

/-- A command that leaves the values applied, the duty words and the ports alone. -/
theorem PortsSound.congr {s t : State} (h : PortsSound s) (reading : AppliedAfterReading t) (pwm : PwmSound t)
    (duties : SameDuties s t) (ports : t.ports = s.ports) (applied : t.startUp.applied = s.startUp.applied) : PortsSound t := by
  obtain ⟨-, -, range, sound⟩ := portsSound_iff.mp h
  exact portsSound_iff.mpr ⟨reading, pwm, range.same duties, fun p => (sound p).congr ports applied⟩

/-- A row that names neither the start-up unit, nor the PWM count, nor the ports, and leaves the duty words alone. -/
theorem PortsSound.later {l : List Part} {s t : State} (h : PortsSound s) (k : KeepsLater l s t) (duties : SameDuties s t)
    (hl : Part.startUp ∉ l ∧ Part.pwmCount ∉ l ∧ Part.ports ∉ l) : PortsSound t := by
  obtain ⟨reading, pwm, -, -⟩ := portsSound_iff.mp h
  have same := k.startUp_eq hl.1
  refine h.congr ?_ (pwm.later k hl.2.1) duties (k.ports_eq hl.2.2) (by rw [same])
  rw [AppliedAfterReading, same]
  exact reading

theorem PortsSound.passHalves {s : State} (h : PortsSound s) (n : Nat) : PortsSound (s.passHalves n) :=
  h.later (l := []) ⟨n, Keeps.refl⟩ (sameDuties_passHalves n s) (by simp)

/-- The values applied are handed over while nothing was applied before, so every PWM line is inactive, and the supplies of the
ports in use are switched on (R209). -/
theorem PortsSound.handOver {s : State} (h : PortsSound s) (reading : s.startUp.phase = .reading) (a : Applied)
    (octets : List Octet) : PortsSound (s.handOver a octets) := by
  obtain ⟨early, pwm, range, sound⟩ := portsSound_iff.mp h
  have unused := State.chainOnPort_of_unapplied (early (.inr reading))
  refine portsSound_iff.mpr ⟨fun late => by simp [State.handOver] at late, pwm, range.same (sameDuties_handOver a octets s),
    fun p => ?_⟩
  obtain ⟨-, off, most⟩ := sound p
  have dark : (s.ports.get p).lineActive = false := by
    by_contra lit
    exact (off (by simpa using lit)).1 (unused p)
  have joined : (s.handOver a octets).ports.get p =
      { s.ports.get p with supplyOn := ((s.handOver a octets).chainOnPort p).isSome } := by
    simp only [State.handOver, Table.get_mapWithIndex]; rfl
  unfold PortSound
  rw [joined]
  exact ⟨by rw [Option.isSome_iff_ne_none], fun lit => absurd (dark.symm.trans lit) (by simp), most⟩

theorem onTimeOf_le {d : Nat} (h : d ≤ 65535) : onTimeOf d ≤ 4095 := by unfold onTimeOf; omega

theorem DutiesSound.portOnTime_le {s : State} (h : DutiesSound s) (p : Fin 4) : s.portOnTime p ≤ 4095 := by
  unfold State.portOnTime
  split
  · next c _ =>
    cases duty : (s.chains.get c).duty with
    | none => exact Nat.zero_le _
    | some d => exact onTimeOf_le (h c d duty)
  · exact Nat.zero_le _

/-- One port set to a sound one. -/
theorem PortsSound.setPort {s : State} (h : PortsSound s) {p : Fin 4} {x : Port} (supply : x.supplyOn = (s.ports.get p).supplyOn)
    (line : x.lineActive = true → s.chainOnPort p ≠ none ∧ 1 ≤ x.onTime ∧ x.periodStart ≠ none) (most : x.onTime ≤ 4095) :
    PortsSound (s.setPort p x) := by
  obtain ⟨reading, pwm, range, sound⟩ := portsSound_iff.mp h
  refine portsSound_iff.mpr ⟨reading, pwm, range, fun q => ?_⟩
  by_cases here : q = p
  · subst here
    unfold PortSound
    rw [State.setPort_ports, Table.get_set_self, supply]
    exact ⟨(sound q).1, line, most⟩
  · unfold PortSound
    rw [State.setPort_ports, Table.get_set_other _ _ here]
    exact sound q

theorem PortsSound.beginPeriod {s : State} (h : PortsSound s) {p : Fin 4} (joined : (s.chainOnPort p).isSome = true) :
    PortsSound (s.beginPeriod p) := by
  obtain ⟨-, -, range, -⟩ := portsSound_iff.mp h
  exact h.setPort rfl (fun lit => ⟨Option.isSome_iff_ne_none.mp joined, Nat.succ_le_of_lt (by simpa using lit), by simp⟩)
    (range.portOnTime_le p)

/-- A settling pass posts duty words of at most 65535 (R13, R100). -/
theorem DutiesSound.pass {s : State} (h : DutiesSound s) (d : Nat) : DutiesSound (s.pass d) := by
  intro c x duty
  simp only [State.pass, State.postDuties, Table.get_mapWithIndex] at duty
  split at duty
  · unfold Chain.postDuty at duty
    split at duty
    · exact h c x duty
    · cases duty
      exact dutyOf_le _ _ _ _
  · exact h c x duty

theorem PortsSound.pass {s : State} (h : PortsSound s) (d : Nat) : PortsSound (s.pass d) := by
  obtain ⟨reading, pwm, range, sound⟩ := portsSound_iff.mp h
  exact portsSound_iff.mpr ⟨reading, pwm, range.pass d, fun p => (sound p).congr rfl rfl⟩

theorem PortsSound.release {s : State} (h : PortsSound s) : PortsSound s.release :=
  h.congr (fun early => by simp [State.release] at early) ⟨show 0 < 4096 by decide, rfl⟩ (sameDuties_release s) rfl rfl

theorem PortsSound.startAll {s : State} (h : PortsSound s) (cs : List (Fin 4)) :
    PortsSound (cs.foldl (fun t c => t.startHighest c) s) :=
  h.later (l := [.chains, .responder]) (Keeps.foldl (fun t c => keeps_startHighest c t) cs s).later
    (sameDuties_startAll cs s) (by simp)

theorem portsSound_exec {c : Instr} {s t : State} (inv : PortsSound s) (h : exec c s = .next t) : PortsSound t := by
  obtain ⟨reading, pwm, -, sound⟩ := portsSound_iff.mp inv
  cases c with
  | resetAssert w => cases h; exact portsSound_held _ _ _
  | resetEnd straps =>
    simp only [exec, execResetEnd, Host.Outcome.next.injEq] at h
    split at h
    · next held => subst h; exact inv.congr (fun _ => reading (.inl held)) pwm (SameDuties.refl s) rfl rfl
    · subst h; exact inv
  | readAttempt response =>
    rcases exec_readAttempt h with rfl | ⟨-, rfl⟩
    · exact inv
    · obtain ⟨reading, pwm, -, -⟩ := portsSound_iff.mp (inv.passHalves (2 * (attemptStart s.startUp.attempts - s.timeBase) - s.half))
      exact (inv.passHalves _).congr reading pwm (SameDuties.refl _) rfl rfl
  | readOutcome octets =>
    rcases exec_readOutcome h with rfl | ⟨n, block, first, rfl⟩
    · exact inv
    · have handed := (inv.passHalves (2 * (n - s.timeBase) - s.half)).handOver (by simpa using first)
        (appliedOf s.ownAddress block) (block.getD [])
      exact handed.later (keeps_requestAll _ _).later ((keeps_requestAll _ _).sameDuties (by simp)) (by simp)
  | settlingWaitExpiry =>
    rcases exec_settlingWaitExpiry h with rfl | ⟨-, rfl⟩
    · exact inv
    · exact (inv.passHalves _).release.startAll _
  | settlingPass =>
    cases h
    split
    · exact inv
    · exact (inv.passHalves _).pass _
  | pwmPeriodStart p =>
    cases h
    split
    · next used =>
      obtain ⟨-, joined⟩ := Bool.and_eq_true_iff.mp used
      exact (inv.passHalves _).beginPeriod (by simpa using joined)
    · exact inv
  | pwmOnTimeEnd p =>
    cases h
    split
    · exact inv
    · split
      · obtain ⟨-, -, most⟩ := sound p
        exact (inv.passHalves _).setPort rfl (fun lit => by simp at lit) (by simpa using most)
      · exact inv
  | _ => exact inv.later (exec_keepsLater h) (exec_sameDuties (by simp) (by simp) h) (by simp [changes])

/-- The queue of commands that wait has no bearing on the ports. -/
theorem PortsSound.queue {s : State} (h : PortsSound s) (rest : List Instr) : PortsSound { s with pending := rest } := by
  obtain ⟨reading, pwm, -, -⟩ := portsSound_iff.mp h
  exact h.congr reading pwm (SameDuties.refl s) rfl rfl

/-- Settles O16: a port depends on the values applied, the duty words and its own record, and each row leaves these alone or sets
them soundly. -/
theorem stepKeepsPortsSound : Obligations.StepKeepsPortsSound := by
  unfold Obligations.StepKeepsPortsSound
  exact keptByStep_of_exec (fun _ rest inv => inv.queue rest) (fun _ inv => inv.passHalves _) fun _ _ _ => portsSound_exec

end Sys2Proof.Machine
end

section
/-! The quarter-second counts (R3, R69 to R71, R108, R171, R175, R197). -/

namespace Sys2Proof.Machine

open Sys2Proof

theorem exec_neighbourAging {s : State} {d : Nat} (h : s.neighbours.agingDue = some d) :
    exec .neighbourAging s = .next { s.arriveAt d with neighbours := { s.neighbours with
      slots := s.neighbours.slots.map fun n => n.bind (Neighbour.aged s.options), agingDue := some (d + 250000) } } := by
  simp [exec, execNeighbourAging, h, Config.quarterSecond]

theorem exec_capCountdown {s : State} {d : Nat} (h : s.cap.countDue = some d) :
    exec .capCountdown s = .next { s.arriveAt d with
      cap := ⟨s.cap.record.bind CapRecord.countDown, some (d + 250000)⟩ } := by
  simp [exec, execCapCountdown, h, Config.quarterSecond]

theorem exec_faultClearedAging {s : State} {d : Nat} (h : s.faults.agingDue = some d) :
    exec .faultClearedAging s = .next ((s.arriveAt d).setFaults { s.faults.aged with agingDue := some (d + 250000) }) := by
  simp [exec, execFaultClearedAging, h, Config.quarterSecond]

theorem exec_deferredReadyAging {s : State} {d : Nat} (h : s.responder.agingDue = some d) :
    exec .deferredReadyAging s = .next { s.arriveAt d with
      responder := ⟨s.responder.deferred.bind Deferred.aged, some (d + 250000)⟩ } := by
  simp [exec, execDeferredReadyAging, h, Config.quarterSecond]

/-- A neighbour record is kept while its age stays below the eviction limit (R69 to R71). -/
theorem Neighbour.aged_eq (o : Options) (n : Neighbour) :
    n.aged o = if n.age + 1 < 4 * o.evictSeconds then
      some { n with age := n.age + 1, freshness := if n.age + 1 ≤ 4 * o.staleSeconds then .fresh else .stale }
    else none := by
  unfold Neighbour.aged
  by_cases young : n.age + 1 < 4 * o.evictSeconds
  · rw [if_neg (by omega), if_pos young]; rfl
  · rw [if_pos (by omega), if_neg young]

/-- A cap record is kept while it has more than one quarter-second left (R108). -/
theorem CapRecord.countDown_eq (r : CapRecord) :
    r.countDown = if 1 < r.remaining then some { r with remaining := r.remaining - 1 } else none := by
  unfold CapRecord.countDown
  split
  · next h => rw [if_neg (by omega)]
  · next h => rw [if_pos (by omega)]

/-- A deferred record that is not WAITING is kept while its ready age stays below 32 (R197). -/
theorem Deferred.aged_eq (r : Deferred) :
    r.aged = if r.state = .waiting then some r
      else if r.readyAge + 1 < 32 then some { r with readyAge := r.readyAge + 1 } else none := by
  unfold Deferred.aged Config.readyFreeAge
  split
  · rfl
  · split
    · next h => rw [if_neg (by omega)]
    · next h => rw [if_pos (by omega)]

/-- An ACTIVE fault record is passed over; a CLEARED one ages, and is kept while its cleared age stays below 120 (R171). -/
theorem FaultRecord.aged_eq (r : FaultRecord) :
    r.aged = if r.state = .active ∨ r.clearedAge + 1 < 120 then
      some (if r.state = .active then r else { r with clearedAge := r.clearedAge + 1 }) else none := by
  unfold FaultRecord.aged Config.removalAge
  cases state : r.state with
  | active => simp
  | cleared =>
    by_cases young : r.clearedAge + 1 < 120
    · simp [young, Nat.not_le.mpr young]
    · simp [young, Nat.not_lt.mp young]

/-- The records that are left of a table are those kept, each aged (R171). -/
theorem FaultTable.aged_records (t : FaultTable) :
    t.aged.records = (t.records.filter fun r => r.state = .active ∨ r.clearedAge + 1 < 120).map (fun r =>
      if r.state = .active then r else { r with clearedAge := r.clearedAge + 1 }) := by
  show t.records.filterMap FaultRecord.aged = _
  induction t.records with
  | nil => rfl
  | cons r rest ih =>
    by_cases kept : r.state = .active ∨ r.clearedAge + 1 < 120
    · rw [List.filterMap_cons_some (by rw [FaultRecord.aged_eq, if_pos kept]), List.filter_cons_of_pos (by simpa using kept),
        List.map_cons, ih]
    · rw [List.filterMap_cons_none (by rw [FaultRecord.aged_eq, if_neg kept]), List.filter_cons_of_neg (by simpa using kept), ih]

/-- The overflow flag goes when 20 records or fewer are left (R175). -/
theorem FaultTable.aged_overflow (t : FaultTable) :
    t.aged.overflow = true ↔ t.overflow = true ∧ 20 < t.aged.records.length := by
  simp only [FaultTable.aged, Bool.and_eq_true, Bool.not_eq_true', decide_eq_false_iff_not, Nat.not_le]
  exact Iff.rfl

/-- Settles O43: each of the four rows acts record by record. -/
theorem quarterSecondCounts : Obligations.QuarterSecondCounts := by
  unfold Obligations.QuarterSecondCounts
  refine ⟨fun s d due => ⟨_, exec_neighbourAging due, keeps_neighbours _ _, rfl, rfl, rfl, fun i empty => ?_, fun i n filled => ?_⟩,
    fun s d due => ⟨_, exec_capCountdown due, keeps_cap _ _, rfl, fun empty => ?_, fun r present => ?_⟩,
    fun s d due => ⟨_, exec_faultClearedAging due, keeps_setFaults _ _, rfl, rfl, s.faults.aged_records, s.faults.aged_overflow⟩,
    fun s d due => ⟨_, exec_deferredReadyAging due, keeps_responder _ _, rfl, fun empty => ?_, fun r present => ?_⟩⟩
  · rw [Table.get_map, empty]; rfl
  · rw [Table.get_map, filled, Option.bind_some, Neighbour.aged_eq]
  · rw [empty]; rfl
  · rw [present, Option.bind_some, CapRecord.countDown_eq]
  · rw [empty]; rfl
  · rw [present, Option.bind_some, Deferred.aged_eq]

end Sys2Proof.Machine
end

section
/-! The beacon of the station (R54, R55, R213). -/

namespace Sys2Proof.Machine

open Sys2Proof

/-- A field of two octets carries the low sixteen bits of its number. -/
@[simp] theorem twoOctets_mod (n : Nat) : twoOctets (n % 65536) = twoOctets n := by
  have low : ∀ m, octet m = octet (m % 256) := fun m => BitVec.eq_of_toNat_eq (by simp [octet])
  have first : n % 65536 / 256 % 256 = n / 256 % 256 := by omega
  have second : n % 65536 % 256 = n % 256 := by omega
  unfold twoOctets
  rw [low (n % 65536 / 256), low (n / 256), low (n % 65536), low n, first, second]

/-- The BEACON of the values as they stand (R55, R213). -/
theorem State.beaconFrame_eq (s : State) : s.beaconFrame =
    { urgency := .routine, sender := s.ownAddress, kind := .beacon
      payload := [BitVec.ofNat 8 s.settling.mode.code] ++ twoOctets s.settling.yOut ++
        twoOctets (s.ownAmbient.getD 0x3FF) ++ twoOctets ((s.cap.record.map CapRecord.level).getD 0x3FF) ++
        twoOctets ((s.cap.record.map CapRecord.remaining).getD 0) ++
        [BitVec.ofNat 8 s.faults.activeCount, summaryOctet s.faults.highest s.faults.overflow, BitVec.ofNat 8 s.line.seq] } := by
  simp [State.beaconFrame, beaconOctets, State.beaconFields, codeOrAbsent, octet]

@[simp] theorem State.arriveAt_ownAmbient (t : Nat) (s : State) : (s.arriveAt t).ownAmbient = s.ownAmbient := by
  simp [State.ownAmbient]

theorem exec_beaconBuild {s : State} {d : Nat} (due : s.line.beaconDue = some d) (sends : s.line.listenOnly = false) :
    exec .beaconBuild s = .next ((s.arriveAt d).buildBeacon d) := by
  simp [exec, execBeaconBuild, due, sends]

theorem exec_beaconBuild_listening {s : State} (h : s.line.listenOnly = true) : exec .beaconBuild s = .next s := by
  simp only [exec, execBeaconBuild, h, if_true]
  split <;> rfl

/-- Settles O40: nothing that a beacon carries changes while its slot is awaited. -/
theorem beaconIsBuilt : Obligations.BeaconIsBuilt := by
  unfold Obligations.BeaconIsBuilt
  refine ⟨fun s d due sends => ⟨_, exec_beaconBuild due sends, keeps_buildBeacon _ _, ?_⟩, fun s => exec_beaconBuild_listening⟩
  simp [State.buildBeacon, State.beaconFrame_eq, Config.second]

end Sys2Proof.Machine
end

section
/-! The supply scanner (R2, R159 to R161). -/

namespace Sys2Proof.Machine

open Sys2Proof

/-- A port is in use when some used chain is joined to it (R114, R115). -/
theorem State.chainOnPort_isSome_iff {s : State} {p : Fin 4} :
    (s.chainOnPort p).isSome = true ↔ ∃ c, s.used c = true ∧ s.options.crossbar.get c = p := by
  simp [State.chainOnPort]

/-- The monitored ports (R159). -/
theorem State.mem_monitoredPorts {s : State} {p : Fin 4} :
    p ∈ s.monitoredPorts ↔ 0 < s.options.nominals.get p ∧ ∃ c, s.used c = true ∧ s.options.crossbar.get c = p := by
  simp only [State.monitoredPorts, State.monitored, List.mem_filter, List.mem_finRange, true_and, Bool.and_eq_true,
    decide_eq_true_eq, State.chainOnPort_isSome_iff]
  exact and_comm

theorem State.monitoredPorts_ascending (s : State) : s.monitoredPorts.Pairwise (· < ·) :=
  (List.pairwise_lt_finRange 4).filter _

theorem State.arriveAt_monitoredPorts (t : Nat) (s : State) : (s.arriveAt t).monitoredPorts = s.monitoredPorts :=
  List.filter_congr fun p _ => by simp [State.monitored]

theorem exec_supplyScan {s : State} {d : Nat} (h : s.scanner.scanDue = some d) :
    exec .supplyScan s = .next { s.arriveAt d with scanner := { s.scanner with
      queue := s.monitoredPorts, conversionEnd := d + 20, scanDue := some (d + 250000) } } := by
  simp [exec, execSupplyScan, h, State.arriveAt_monitoredPorts, Config.conversion, Config.quarterSecond]

theorem exec_conversionComplete {s : State} {p : Fin 4} {rest : List (Fin 4)} (x : BitVec 10) (h : s.scanner.queue = p :: rest) :
    exec (.conversionComplete x) s =
      .next ((s.arriveAt s.scanner.conversionEnd).evaluateSample p rest x.toNat) := by
  simp [exec, execConversionComplete, h]

/-- What a sample does: the port's record takes it, the next conversion begins, and a request is made where the record's run gives
one (R159, R160). -/
theorem State.evaluateSample_eq (p : Fin 4) (rest : List (Fin 4)) (sample : Nat) (s : State) {low high : Nat}
    (hl : low = s.options.nominals.get p * s.options.droopLevel / 32) (hh : high = low + s.options.nominals.get p / 32) :
    s.evaluateSample p rest sample =
      { s with
        scanner := { s.scanner with
          records := s.scanner.records.set p ((s.scanner.records.get p).sampled low high sample), queue := rest
          conversionEnd := s.scanner.conversionEnd + 20 }
        requests := s.requests ++ madeNow s
          ((((s.scanner.records.get p).report low high sample).map fun a => (.supplyDroop, s.portSource p, a)).toList) } := by
  subst hl hh
  unfold State.evaluateSample
  dsimp only [supplyThreshold, recoveryLevel, Config.conversion]
  split
  · next a h => simp only [h]; rfl
  · next h => simp [h, madeNow]

section
variable {low high x : Nat} (r : SupplyRecord)

theorem SupplyRecord.sampled_low (h : x < low) : r.sampled low high x =
    { lowRun := min (r.lowRun + 1) 2, goodRun := 0, droopReported := r.droopReported || decide (r.lowRun = 1) } := if_pos h

theorem SupplyRecord.sampled_between (h : low ≤ x) (h' : x < high) :
    r.sampled low high x = { r with lowRun := 0, goodRun := 0 } := by
  simp [SupplyRecord.sampled, Nat.not_lt.mpr h, h']

theorem SupplyRecord.sampled_high (h : low ≤ x) (h' : high ≤ x) : r.sampled low high x =
    { lowRun := 0, goodRun := min (r.goodRun + 1) 8, droopReported := r.droopReported && decide (r.goodRun ≠ 7) } := by
  simp [SupplyRecord.sampled, Nat.not_lt.mpr h, Nat.not_lt.mpr h', satSucc]

theorem SupplyRecord.report_low (h : x < low) : r.report low high x =
    if r.lowRun = 1 ∧ r.droopReported = false then some (.raise (some (BitVec.ofNat 16 x))) else none := by
  simp [SupplyRecord.report, h]

theorem SupplyRecord.report_between (h : low ≤ x) (h' : x < high) : r.report low high x = none := by
  simp [SupplyRecord.report, Nat.not_lt.mpr h, h']

theorem SupplyRecord.report_high (h : low ≤ x) (h' : high ≤ x) : r.report low high x =
    if r.goodRun = 7 ∧ r.droopReported = true then some .withdraw else none := by
  simp [SupplyRecord.report, Nat.not_lt.mpr h, Nat.not_lt.mpr h']

end

/-- Settles O56: the monitored ports of a scan, and a sample in each of its three ranges. -/
theorem supplyWatched : Obligations.SupplyWatched := by
  unfold Obligations.SupplyWatched
  refine ⟨fun s d due => ⟨_, exec_supplyScan due, keeps_scanner _ _, rfl, rfl, rfl, s.monitoredPorts_ascending,
    fun p => State.mem_monitoredPorts⟩, ?_⟩
  rintro s p rest x old low high queue rfl hl hh
  have source : (s.arriveAt s.scanner.conversionEnd).portSource p = s.portSource p := by simp [State.portSource]
  refine ⟨_, (s.scanner.records.get p).sampled low high x.toNat, exec_conversionComplete x queue,
    keeps_evaluateSample _ _ _ _, ?_, fun below => ⟨SupplyRecord.sampled_low _ below, ?_⟩,
    fun above below => ⟨SupplyRecord.sampled_between _ above below, ?_⟩,
    fun above => ⟨SupplyRecord.sampled_high _ (by omega) above, ?_⟩⟩ <;>
    rw [State.evaluateSample_eq p rest x.toNat (s.arriveAt s.scanner.conversionEnd) (by simpa using hl) (by simpa using hh)]
  · simp
  · simp only [State.arriveAt_scanner, State.arriveAt_requests, source, SupplyRecord.report_low _ below, BitVec.ofNat_toNat]
    split <;> simp [madeNow]
  · simp [SupplyRecord.report_between _ above below, madeNow]
  · simp only [State.arriveAt_scanner, State.arriveAt_requests, source, SupplyRecord.report_high _ (show low ≤ _ by omega) above]
    split <;> simp [madeNow]

end Sys2Proof.Machine
end

section
/-! The end of a gate window, and the own ambient (R11, R12, R17 to R26). -/

namespace Sys2Proof.Machine

open Sys2Proof

/-! ### The window that begins -/

/-- Edges taken one after another: they add to the count, the first sets the first stamp where there is none, and the last one the last
stamp (R19). -/
theorem GateWindow.foldl_add (stamps : List Nat) (w : GateWindow) :
    stamps.foldl (fun w t => w.add t) w =
      { count := w.count + stamps.length, first := w.first.or stamps.head?, last := stamps.getLast?.or w.last } := by
  induction stamps generalizing w with
  | nil => simp
  | cons x rest ih =>
    rw [List.foldl_cons, ih]
    cases first : w.first <;> simp [GateWindow.add, first, List.getLast?_cons, Nat.add_assoc, Nat.add_comm 1]

/-! ### The outcome of the window that ends -/

section
variable (constant : Nat) (c : SensorChannel)

/-- Two edges or more give a code (R11, R12, R21). -/
theorem SensorChannel.judge_good (h : 2 ≤ c.window.count) : c.judge constant =
    { c with
      lastCode := some (min 671 (constant - log32 (max ((c.window.last.getD 0 - c.window.first.getD 0) / (c.window.count - 1)) 16)))
      silent := 0, state := .valid } := by
  unfold SensorChannel.judge ambientCode clampInt
  rw [if_pos h, Int.toNat_sub, Nat.min_comm]
  rfl

/-- Fewer than two edges keep the code and count towards silence (R22, R23). -/
theorem SensorChannel.judge_silent (h : c.window.count < 2) : c.judge constant =
    { c with
      silent := if c.silent < 3 then c.silent + 1 else c.silent
      state := if c.silent = 2 then .invalid else c.state } := by
  unfold SensorChannel.judge
  rw [if_neg (by omega)]
  split
  · rfl
  · next h3 => rw [if_neg (show ¬c.silent = 2 by omega)]

theorem SensorChannel.report_good (h : 2 ≤ c.window.count) :
    c.report = if c.silent = 3 then some .withdraw else none := if_pos h

theorem SensorChannel.report_silent (h : c.window.count < 2) :
    c.report = if c.silent = 2 then some (.raise none) else none := if_neg (by omega)

@[simp] theorem SensorChannel.judge_early : (c.judge constant).early = c.early := by
  unfold SensorChannel.judge
  split
  · rfl
  · split <;> rfl

@[simp] theorem SensorChannel.judge_latest : (c.judge constant).latest = c.latest := by
  unfold SensorChannel.judge
  split
  · rfl
  · split <;> rfl

end

/-- What a window's end does: the channel is judged and its next window begins, and the request that it reports is made. -/
theorem State.endWindow_eq (i : Fin 2) (e : Nat) (s : State) :
    s.endWindow i e =
      { s.setSensor i (((s.sensors.get i).judge (s.options.sensorConstants.get i)).nextWindow s.options.gate e) with
        requests := s.requests ++ madeNow s
          (((s.sensors.get i).report.map fun a => (.sensorSilent, BitVec.ofNat 6 i.val, a)).toList) } := by
  unfold State.endWindow
  dsimp only
  split
  · next h => simp [h, madeNow, State.setSensor]
  · next a h => simp only [h]; rfl

theorem exec_gateWindowEnd {i : Fin 2} {s : State} {e : Nat} (h : (s.sensors.get i).windowEnd = some e) :
    exec (.gateWindowEnd i) s = .next ((s.arriveAt e).endWindow i e) := by
  simp [exec, execGateWindowEnd, h]

/-! ### The own ambient -/

theorem SensorChannel.code_valid {c : SensorChannel} {a : Nat} (valid : c.state = .valid) (h : c.lastCode = some a) :
    c.code = some a := by
  simp [SensorChannel.code, valid, h]

theorem SensorChannel.code_invalid {c : SensorChannel} (h : c.state = .invalid) : c.code = none := by
  simp [SensorChannel.code, h]

/-- There are two channels. -/
theorem channels_of_ne {i j : Fin 2} (h : i ≠ j) : (i = 0 ∧ j = 1) ∨ (i = 1 ∧ j = 0) := by omega

/-- Settles O33: the channel is judged by its count of edges, and the edges that wait are taken into the next window. -/
theorem windowOutcome : Obligations.WindowOutcome := by
  unfold Obligations.WindowOutcome
  constructor
  · intro i s e due
    refine ⟨_, exec_gateWindowEnd due, keeps_endWindow i e _, fun j other => ?_, ?_, fun good => ?_, fun silent => ?_, ?_, ?_, ?_⟩ <;>
      simp only [State.endWindow_eq, State.setSensor_sensors, Table.get_set_self, State.arriveAt_sensors, State.arriveAt_options,
        State.arriveAt_requests]
    · rw [Table.get_set_other _ _ other]
    · rfl
    · rw [SensorChannel.report_good _ good, SensorChannel.judge_good _ _ good]
      refine ⟨rfl, rfl, rfl, ?_⟩
      split <;> rfl
    · rw [SensorChannel.report_silent _ silent, SensorChannel.judge_silent _ _ silent]
      refine ⟨rfl, rfl, rfl, ?_⟩
      split <;> rfl
    · simp [SensorChannel.nextWindow]
    · simp [SensorChannel.nextWindow, GateWindow.foldl_add, GateWindow.empty]
    · simp [SensorChannel.nextWindow]
  · refine fun s => ⟨fun a b valid0 code0 valid1 code1 => ?_, fun i j a differ valid code invalid => ?_, fun invalid => ?_⟩ <;>
      unfold State.ownAmbient
    · rw [SensorChannel.code_valid valid0 code0, SensorChannel.code_valid valid1 code1]
      rfl
    · have heard := SensorChannel.code_valid valid code
      have silent := SensorChannel.code_invalid invalid
      rcases channels_of_ne differ with ⟨rfl, rfl⟩ | ⟨rfl, rfl⟩ <;> rw [heard, silent] <;> rfl
    · rw [SensorChannel.code_invalid (invalid 0), SensorChannel.code_invalid (invalid 1)]
      rfl

end Sys2Proof.Machine
end

section
/-! A usable census (R122, R124, R139, R144). -/

namespace Sys2Proof.Machine

open Sys2Proof

theorem madeNow_eq (t : State) (rs : List (FaultKind × Source × FaultAction)) :
    madeNow t rs = rs.map (Request.made t.timeBase) := rfl

/-- The withdraws of a chain's marks follow from the tile records. -/
theorem absenceWithdraws_congr {s t : State} (h : t.collector = s.collector) (c : Fin 4) (n : Nat) :
    absenceWithdraws t c n = absenceWithdraws s c n := by
  unfold absenceWithdraws
  rw [h]

/-- The chain after a usable census, in full (R124). -/
theorem Chain.usable_eq (count : Nat) (ch : Chain) : ch.usable count =
    { ch with
      state := .idle, bitCount := 0, lead := none, wordsDone := 0, entered := [], finalArrived := false, stalled := false
      census := some count, retryDue := none
      pend := { ch.pend with sweep := true, brightness := ch.pend.brightness || ch.duty.isSome }
      pendingValue := ch.duty.getD ch.pendingValue } := by
  cases duty : ch.duty <;>
    simp [Chain.usable, Chain.finish, Chain.begin, Chain.postSweep, Chain.postBrightness, duty]

/-- What a usable census does: three requests, the marks, and the chain's own record (R124). -/
theorem State.censusUsable_eq (c : Fin 4) (count : Nat) (s : State) :
    s.censusUsable c count =
      ((s.requestAll [(.tileCount, chainSource c, tileCountAction count (s.options.tileCounts.get c)),
        (.chainDown, chainSource c, .withdraw), (.chainTimeout, chainSource c, .withdraw)]).markChain c
          (min count (s.options.tileCounts.get c))).setChain c ((s.chains.get c).usable count) := by
  unfold State.censusUsable
  dsimp only
  rw [State.markChain_chains]
  rfl

@[simp] theorem State.markChain_pointer (c : Fin 4) (n : Nat) (s : State) :
    (s.markChain c n).collector.pointer = s.collector.pointer := by rw [State.markChain_eq]
@[simp] theorem State.markChain_lastTake (c : Fin 4) (n : Nat) (s : State) :
    (s.markChain c n).collector.lastTake = s.collector.lastTake := by rw [State.markChain_eq]

/-- Each tile record after a chain's marks (R144). -/
theorem State.markChain_tile (c : Fin 4) (n : Nat) (s : State) (d : Fin 4) (q : Fin 16) :
    (s.markChain c n).collector.tiles.get (tileIndex d q) =
      if d = c then (s.collector.tiles.get (tileIndex d q)).afterMark (q.val < n)
      else s.collector.tiles.get (tileIndex d q) := by
  obtain ⟨tiles, -⟩ := State.markChain_does c n s
  exact tiles d q

/-- A bit reached and one chain changed afterwards: the other chains have only run on. -/
theorem State.reachBit_butChain {c : Fin 4} {k : Nat} {l : List Part} {s t : State} (h : Keeps (.chains :: l) (s.reachBit c k) t)
    (others : ∀ d, d ≠ c → t.chains.get d = (s.reachBit c k).chains.get d) :
    KeepsButChain c l (s.passHalves (k - (s.chains.get c).bitCount)) t :=
  ⟨((keeps_reachBit c k s).mono (by simp)).trans h, fun d other => (others d other).trans (State.reachBit_other s other k)⟩

/-- A lead bit at a bit time of 1 to 64 makes the census usable (R122). -/
theorem exec_censusComplete {c : Fin 4} {n : Nat} {s : State} (run : s.running = true) (h : (s.chains.get c).state = .census)
    (low : 1 ≤ n) (high : n ≤ 64) : exec (.censusComplete c n) s = .next ((s.reachBit c n).censusUsable c n) := by
  simp [exec, execCensusComplete, run, h, low, high]

/-- Settles O46: the requests, the chain's marks and the chain's record, one after another. -/
theorem censusCounts : Obligations.CensusCounts := by
  unfold Obligations.CensusCounts
  intro c n s run census low high
  refine ⟨_, exec_censusComplete run census low high, State.reachBit_butChain (keeps_censusUsable c n _) fun d other => ?_,
    ?_, ?_, ?_, ?_, fun d p other => ?_, ?_⟩ <;> rw [State.censusUsable_eq]
  · simp [Table.get_set_other _ _ other]
  · rw [State.setChain_chains, Table.get_set_self, State.reachBit_self, Chain.usable_eq]
  · rw [State.setChain_requests, State.markChain_requests, State.requestAll_requests, State.reachBit_requests,
      State.reachBit_options, absenceWithdraws_congr (s := s) (by simp)]
    simp [madeNow_eq, tileCountAction, chainSource]
  · simp
  · simp
  · rw [State.setChain_collector, State.markChain_tile, if_neg other]
    simp
  · rintro p present rfl
    rw [State.setChain_collector, State.markChain_tile, if_pos rfl, State.requestAll_collector, State.reachBit_collector,
      State.reachBit_options]
    rfl

end Sys2Proof.Machine
end

section
/-! The release of the blocks (R3, R17, R33, R57, R119, R121, R140, R142, R210). -/

namespace Sys2Proof.Machine

open Sys2Proof

/-- What is kept through the passing of time, when the parts that time changes are let go. -/
theorem KeepsLater.keeps {l : List Part} {s t : State} (h : KeepsLater l s t) :
    Keeps ([.timeBase, .pwmCount, .chains, .wire] ++ l) s t := by
  obtain ⟨n, h⟩ := h
  exact ((keeps_passHalves n s).mono (by simp)).trans (h.mono fun p mem => by simp [mem])

/-- A chain as the values applied leave it: used, IDLE and with its census posted, or unused and OFF (R142, R209). -/
def State.ChainReady (s : State) (c : Fin 4) : Prop :=
  if s.used c then (s.chains.get c).state = .idle ∧ (s.chains.get c).pend.census = true else (s.chains.get c).state = .off

/-- A chain that is ready starts its census when it is used, and otherwise stays as it is (R119). -/
theorem State.startHighest_ready {s : State} {c : Fin 4} (h : s.ChainReady c) :
    s.startHighest c = s.setChain c (if s.used c then (s.chains.get c).startCensus else s.chains.get c) := by
  unfold State.ChainReady at h
  unfold State.startHighest
  split at h
  · next used => simp [h, used]
  · next unused => simp [h, unused, State.setChain]

/-- Chains that are ready each start their census when they are used, one after another (R142). -/
theorem State.startAll_ready {cs : List (Fin 4)} {s : State} (distinct : cs.Nodup) (h : ∀ c ∈ cs, s.ChainReady c) :
    cs.foldl (fun t c => t.startHighest c) s =
      { s with chains := s.chains.mapWithIndex fun c ch => if c ∈ cs ∧ s.used c = true then ch.startCensus else ch } := by
  induction cs generalizing s with
  | nil =>
    have same : s.chains.mapWithIndex (fun _ ch => ch) = s.chains := Table.ext fun c => Table.get_mapWithIndex _ _ _
    simp [same]
  | cons c rest ih =>
    obtain ⟨new, nodup⟩ := List.nodup_cons.mp distinct
    rw [List.foldl_cons, State.startHighest_ready (h c (by simp)), ih nodup fun d mem => ?_]
    · refine congrArg (fun cs => ({ s with chains := cs } : State)) (Table.ext fun d => ?_)
      simp only [Table.get_mapWithIndex, State.setChain_chains, State.setChain_used]
      by_cases here : d = c
      · subst here
        simp [new]
      · simp [here, Table.get_set_other _ _ here]
    · have other : d ≠ c := fun e => new (e ▸ mem)
      have ready := h d (by simp [mem])
      unfold State.ChainReady at ready ⊢
      rw [State.setChain_used, State.setChain_chains, Table.get_set_other _ _ other]
      exact ready

/-- The released chain is the chain before it but for its two intervals (R121). -/
theorem State.release_chain (s : State) (c : Fin 4) : s.release.chains.get c =
    if s.used c then
      { s.chains.get c with
        sweepDue := some (s.timeBase + s.options.sweepSeconds * 1000000)
        testDue := some (s.timeBase + s.options.testSeconds * 1000000) }
    else s.chains.get c := Table.get_mapWithIndex _ _ _

theorem State.release_used (s : State) (c : Fin 4) : s.release.used c = s.used c := rfl

/-- A chain that is ready before the release is ready after it. -/
theorem State.ChainReady.release {s : State} {c : Fin 4} (h : s.ChainReady c) : s.release.ChainReady c := by
  unfold State.ChainReady at h ⊢
  rw [State.release_used, State.release_chain]
  cases used : s.used c <;> simpa [used] using h

/-- Time leaves a chain ready before the release, where no operation runs. -/
theorem State.ChainReady.arriveAt {s : State} {c : Fin 4} (h : s.ChainReady c) (t : Nat) : (s.arriveAt t).ChainReady c := by
  unfold State.ChainReady at h ⊢
  rw [State.arriveAt_used, State.arriveAt_eq, State.passHalves_chain_eq]
  exact h

theorem exec_settlingWaitExpiry_powering {s : State} {w : Nat} (powering : s.startUp.phase = .powering)
    (wait : s.startUp.waitEnd = some w) (ready : ∀ c, s.ChainReady c) : exec .settlingWaitExpiry s =
      .next { (s.arriveAt w).release with
        chains := (s.arriveAt w).release.chains.mapWithIndex fun c ch => if s.used c then ch.startCensus else ch } := by
  have started := State.startAll_ready (List.nodup_finRange 4) fun c _ => ((ready c).arriveAt w).release
  simp only [exec, execSettlingWaitExpiry, powering, if_true, wait, Option.getD_some, started, List.mem_finRange, true_and,
    State.release_used, State.arriveAt_used]

/-- Settles O31: the release at the end of the wait, and then the census of each used chain, which stands ready. -/
theorem blocksReleased : Obligations.BlocksReleased := by
  unfold Obligations.BlocksReleased
  intro s w powering wait later ready
  have answer := exec_settlingWaitExpiry_powering powering wait ready
  have now : (s.arriveAt w).timeBase = w := by
    rw [State.arriveAt_timeBase s w (by simp [powering]), Nat.max_eq_right later]
  have before : s.running = false := by simp [State.running, powering]
  have chain : ∀ c, (s.arriveAt w).chains.get c = s.chains.get c := fun c => by
    rw [State.arriveAt_eq, keeps_passHalves_unreleased _ before .chains (by simp)]
  refine ⟨_, answer, (exec_keepsLater answer).keeps.mono (by simp [changes]), ?_⟩
  refine ⟨?_, ?_, rfl, fun i => ?_, ?_, ?_, ?_, ?_, ?_, ?_, ?_, fun c => ?_⟩
  · simp [State.release]
  · exact now
  · simp [State.release, now]
  · simp [State.release, now, LineSamples.reset]
  · simp [State.release, now, Config.quarterSecond]
  · simp [State.release, now, Config.quarterSecond]
  · simp [State.release, now, Config.quarterSecond]
  · simp [State.release, now, Config.quarterSecond]
  · simp [State.release, now, Config.quarterSecond]
  · simp [State.release, now, Config.quarterSecond]
  · rw [Table.get_mapWithIndex, State.release_chain, State.arriveAt_used, State.arriveAt_options, now, chain]
    split <;> rfl

end Sys2Proof.Machine
end

section
/-! An edge of a sensor, and the window that it is taken into (R18, R19). -/

namespace Sys2Proof.Machine

open Sys2Proof

/-! ### What an edge does to its channel -/

section
variable {c : SensorChannel} {gate e stamp k : Nat}

/-- An edge is the first of its stamp when it comes after the latest one, and otherwise shares the latest stamp with at most three
before it (R18; log entry 15). -/
theorem SensorChannel.share_eq_some : c.share stamp = some k ↔
    ((c.latest = none ∨ ∃ x n, c.latest = some (x, n) ∧ x < stamp) ∧ k = 1) ∨
      ∃ n, c.latest = some (stamp, n) ∧ n < 4 ∧ k = n + 1 := by
  unfold SensorChannel.share
  cases latest : c.latest with
  | none => simp [eq_comm]
  | some edge =>
    obtain ⟨x, n⟩ := edge
    rcases Nat.lt_trichotomy x stamp with before | rfl | after
    · have other := Nat.ne_of_lt before
      simp [before, other, eq_comm (a := 1)]
    · have room : n < Config.edgesPerMicro ↔ n < 4 := Iff.rfl
      simp [room, eq_comm (b := k)]
    · simp [Nat.not_lt_of_gt after, Nat.ne_of_gt after]

/-- A stamp before the latest one, or a fifth edge of one stamp, is no edge (log entry 15). -/
theorem SensorChannel.share_eq_none {x n : Nat} (latest : c.latest = some (x, n)) (h : stamp < x ∨ (stamp = x ∧ 4 ≤ n)) :
    c.share stamp = none := by
  rcases h with before | ⟨rfl, full⟩
  · simp [SensorChannel.share, latest, Nat.not_lt_of_gt before, Nat.ne_of_gt before]
  · simp [SensorChannel.share, latest, Config.edgesPerMicro, Nat.not_lt_of_ge full]

theorem SensorChannel.edge_refused (h : c.share stamp = none) : c.edge gate e stamp = c := by
  simp [SensorChannel.edge, h]

/-- An edge at or after the window's end waits for its own window (R19). -/
theorem SensorChannel.edge_early (h : c.share stamp = some k) (late : e ≤ stamp) :
    c.edge gate e stamp = { c with early := c.early ++ [stamp], latest := some (stamp, k) } := by
  simp [SensorChannel.edge, h, late]

/-- An edge within the window in progress is counted there (R19). -/
theorem SensorChannel.edge_within (h : c.share stamp = some k) (before : stamp < e) (within : e ≤ stamp + gate) :
    c.edge gate e stamp = { c with window := c.window.add stamp, latest := some (stamp, k) } := by
  simp [SensorChannel.edge, h, Nat.not_le_of_gt before, within]

/-- An edge before the window in progress finds no window (log entry 9). -/
theorem SensorChannel.edge_past (h : stamp + gate < e) : c.edge gate e stamp = c := by
  unfold SensorChannel.edge
  split
  · rfl
  · rw [if_neg (by omega), if_neg (by omega)]

/-- Everything that an edge can do: nothing, to wait, or to be counted in the window in progress. -/
theorem SensorChannel.edge_cases (c : SensorChannel) (gate e stamp : Nat) :
    c.edge gate e stamp = c ∨ ∃ k, c.share stamp = some k ∧
      ((e ≤ stamp ∧ c.edge gate e stamp = { c with early := c.early ++ [stamp], latest := some (stamp, k) }) ∨
        (stamp < e ∧ c.edge gate e stamp = { c with window := c.window.add stamp, latest := some (stamp, k) })) := by
  cases share : c.share stamp with
  | none => exact .inl (SensorChannel.edge_refused share)
  | some k =>
    rcases Nat.lt_or_ge stamp e with before | late
    · rcases Nat.lt_or_ge (stamp + gate) e with past | within
      · exact .inl (SensorChannel.edge_past past)
      · exact .inr ⟨k, rfl, .inr ⟨before, SensorChannel.edge_within share before within⟩⟩
    · exact .inr ⟨k, rfl, .inl ⟨late, SensorChannel.edge_early share late⟩⟩

end

/-! ### The command -/

theorem exec_sensorEdge {i : Fin 2} {stamp e : Nat} {s : State} (h : (s.sensors.get i).windowEnd = some e) :
    exec (.sensorEdge i stamp) s =
      .next ((s.arriveAt stamp).setSensor i ((s.sensors.get i).edge s.options.gate e stamp)) := by
  simp [exec, execSensorEdge, h]

/-- A channel that runs no windows takes no edges. -/
theorem exec_sensorEdge_idle {i : Fin 2} {s : State} (h : (s.sensors.get i).windowEnd = none) (stamp : Nat) :
    exec (.sensorEdge i stamp) s = .next s := by
  simp [exec, execSensorEdge, h]

/-- Settles O32: what the channel's record becomes follows from its latest edge and from where the stamp falls. -/
theorem edgeTakenIntoItsWindow : Obligations.EdgeTakenIntoItsWindow := by
  unfold Obligations.EdgeTakenIntoItsWindow
  constructor
  · intro i stamp k s e due first
    have share := SensorChannel.share_eq_some.mpr first
    refine ⟨_, exec_sensorEdge due, keeps_setSensor _ _ _, fun j other => ?_, fun before within => ?_, fun late => ?_,
      fun past => ?_⟩ <;> rw [State.setSensor_sensors, State.arriveAt_sensors]
    · rw [Table.get_set_other _ _ other]
    · rw [Table.get_set_self, SensorChannel.edge_within share before within]
      rfl
    · rw [Table.get_set_self, SensorChannel.edge_early share late]
    · rw [Table.get_set_self, SensorChannel.edge_past past]
  · intro i stamp x k s latest refused
    cases due : (s.sensors.get i).windowEnd with
    | none => exact ⟨s, exec_sensorEdge_idle due stamp, rfl⟩
    | some e =>
      refine ⟨_, exec_sensorEdge due, ?_⟩
      rw [SensorChannel.edge_refused (SensorChannel.share_eq_none latest refused), State.setSensor_sensors,
        State.arriveAt_sensors, Table.set_get]

end Sys2Proof.Machine
end

section
/-! The machine in reset has every property that the steps keep (R29, R57, R74, R103, R142, R158, R162, R183, R198, R199, R211). -/

namespace Sys2Proof.Machine

open Sys2Proof

section
variable (sources : ResetSources) (cause : ResetSource) (pending : List Instr)

/-! ### The parts of a held machine, one by one -/

@[simp] theorem State.held_wire : (State.held sources cause pending).wire = LineSamples.reset := rfl
@[simp] theorem State.held_requests : (State.held sources cause pending).requests = [] := rfl
@[simp] theorem State.held_tile (i : Fin 64) : (State.held sources cause pending).collector.tiles.get i = TileRecord.reset :=
  Table.get_replicate _ _
@[simp] theorem State.held_used (c : Fin 4) : (State.held sources cause pending).used c = false := rfl
@[simp] theorem State.held_options : (State.held sources cause pending).options = defaultOptions := rfl
@[simp] theorem NeighbourTable.reset_window (w : Fin 3) : NeighbourTable.reset.windows.get w = ViewWindow.disabled :=
  Table.get_replicate _ _
@[simp] theorem NeighbourTable.reset_slot (i : Fin 32) : NeighbourTable.reset.slots.get i = none := Table.get_replicate _ _
@[simp] theorem Scanner.reset_record (p : Fin 4) : Scanner.reset.records.get p = ⟨0, 0, false⟩ := Table.get_replicate _ _

/-- No tile is marked in a held machine. -/
@[simp] theorem State.held_marked (c : Fin 4) (p : Nat) : (State.held sources cause pending).marked c p = false := by
  unfold State.marked State.tileAt
  split
  · next t h =>
    split at h
    · cases h
      rw [State.held_tile]
      rfl
    · cases h
  · rfl

/-! ### Its invariants -/

theorem heldIsReset_held : HeldIsReset (State.held sources cause pending) := fun _ => rfl

/-- Nothing is applied, and every view window is disabled (R74, R211). -/
theorem valuesSound_held : ValuesSound (State.held sources cause pending) := by
  refine ⟨by simp, ⟨fun w on => ?_, fun v w _ on => ?_⟩, fun _ => rfl, fun h => absurd rfl h⟩ <;>
    · rw [State.held_neighbours, NeighbourTable.reset_window] at on
      cases on

/-- The fault table is empty (R183). -/
theorem faultTableSound_reset : FaultTable.reset.Sound := by simp [FaultTable.Sound, FaultTable.reset]

theorem lineControlSound_reset : LineControl.reset.Sound := by
  simp [LineControl.Sound, QueueSound, LineCounters.Sound, LineControl.reset, LineCounters.zero]

theorem lineSamplesSound_reset : LineSamples.reset.Sound := by decide

/-- The line controller has nothing to send and has taken no sample (R57). -/
theorem lineSound_held : LineSound (State.held sources cause pending) :=
  ⟨lineControlSound_reset, lineSamplesSound_reset, fun _ => ⟨rfl, rfl, rfl, rfl, rfl⟩, fun _ => ⟨rfl, rfl⟩⟩

/-- Every slot is empty (R74). -/
theorem neighboursSound_held : NeighboursSound (State.held sources cause pending) :=
  ⟨by simp, by simp, by simp⟩

theorem settlingSound_held : SettlingSound (State.held sources cause pending) :=
  ⟨by simp, by simp [Settling.Sound, Settling.reset, StageRecord.starting], fun _ => rfl⟩

theorem chainSound_reset : Chain.reset.Sound := by
  simp [Chain.Sound, Chain.reset, operating]

/-- No chain is used, and each is OFF (R142). -/
theorem chainsSound_held : ChainsSound (State.held sources cause pending) := by
  refine ⟨fun _ => rfl, fun c => ?_⟩
  rw [State.held_chain]
  exact ⟨chainSound_reset, by simp [Chain.reset]⟩

/-- No census has returned, and no tile is marked (R142, R158). -/
theorem tilesSound_held : TilesSound (State.held sources cause pending) := by
  refine ⟨fun i => ?_, ?_, fun _ c => ?_, fun c => ?_⟩
  · rw [State.held_tile]
    simp [TileRecord.Sound, TileRecord.reset]
  · rw [State.held_options]
    decide
  · rw [State.held_chain]
    rfl
  · simp [Chain.reset]

/-- There is no deferred record and no detail request (R142, R198). -/
theorem deferredSound_held : DeferredSound (State.held sources cause pending) := by
  refine ⟨fun _ => rfl, by simp, fun c => ?_⟩
  simp [Chain.NoDetail, Chain.reset, PendingSet.empty]

theorem requestsSound_held : RequestsSound (State.held sources cause pending) :=
  ⟨heldIsReset_held sources cause pending, List.Pairwise.nil, by simp⟩

/-- No channel runs windows, and none has had an edge (R29). -/
theorem channelSound_reset : SensorChannel.reset.Sound := by
  simp [SensorChannel.Sound, SensorChannel.EdgesSound, SensorChannel.reset, GateWindow.empty]

theorem sensorsSound_held : SensorsSound (State.held sources cause pending) := by
  refine ⟨fun _ i => ?_, fun i => ?_⟩ <;> rw [State.held_sensor]
  · rfl
  · exact channelSound_reset

theorem scannerSound_held : ScannerSound (State.held sources cause pending) := fun p => by simp [SupplyRecord.Sound]

theorem capSound_held : CapSound (State.held sources cause pending) := by simp [CapSound]

end

/-- Settles O6: the machine right after reset is a held one. -/
theorem resetIsSound : Obligations.ResetIsSound := by
  unfold Obligations.ResetIsSound State.reset
  exact ⟨heldIsReset_held _ _ _, valuesSound_held _ _ _, faultTableSound_reset, lineSound_held _ _ _,
    neighboursSound_held _ _ _, settlingSound_held _ _ _, chainsSound_held _ _ _, tilesSound_held _ _ _,
    deferredSound_held _ _ _, portsSound_held _ _ _, requestsSound_held _ _ _, sensorsSound_held _ _ _,
    scannerSound_held _ _ _, capSound_held _ _ _⟩

end Sys2Proof.Machine
end

section
/-! The edges of a channel stay in the order of their stamps, at most four to a stamp (R18, R19). -/

namespace Sys2Proof.Machine

open Sys2Proof

/-! ### Stamps in order -/

/-- The last of a list in order is the one that no other exceeds. -/
theorem getLast?_eq_some_iff_of_ordered {l : List Nat} (ordered : l.Pairwise (· ≤ ·)) {x : Nat} :
    l.getLast? = some x ↔ x ∈ l ∧ ∀ y ∈ l, y ≤ x := by
  induction l using List.reverseRecOn with
  | nil => simp
  | append_singleton l z =>
    obtain ⟨-, -, below⟩ := List.pairwise_append.mp ordered
    have most : ∀ y ∈ l, y ≤ z := fun y mem => below y mem z (by simp)
    simp only [List.getLast?_concat, Option.some.injEq, List.mem_append, List.mem_singleton]
    constructor
    · rintro rfl
      exact ⟨.inr rfl, fun y mem => mem.elim (most y) (·.le)⟩
    · rintro ⟨mem, top⟩
      exact Nat.le_antisymm (top z (.inr rfl)) (mem.elim (most x) (·.le))

/-- Stamps in order, at most four of each: there are at most four for each count before the last stamp, and as many more as share the
last one (R18). -/
theorem length_le_of_ordered {l : List Nat} (ordered : l.Pairwise (· ≤ ·)) (few : ∀ x, l.count x ≤ 4) {a b : Nat}
    (first : l.head? = some a) (last : l.getLast? = some b) : a ≤ b ∧ l.length ≤ 4 * (b - a) + l.count b := by
  induction l using List.reverseRecOn generalizing b with
  | nil => cases first
  | append_singleton l z ih =>
    obtain ⟨front, -, below⟩ := List.pairwise_append.mp ordered
    obtain rfl : z = b := by simpa using last
    cases last' : l.getLast? with
    | none =>
      obtain rfl := List.getLast?_eq_none_iff.mp last'
      obtain rfl : z = a := by simpa using first
      simp
    | some y =>
      have nonempty : l ≠ [] := by rintro rfl; cases last'
      have few' : ∀ x, l.count x ≤ 4 := fun x => ((List.sublist_append_left l [z]).count_le x).trans (few x)
      obtain ⟨low, short⟩ := ih front few' (by rwa [List.head?_append_of_ne_nil _ nonempty] at first) last'
      have step : y ≤ z := below y (List.mem_of_getLast? last') z (by simp)
      have most := few' y
      rw [List.length_append, List.length_singleton, List.count_append, List.count_singleton_self]
      refine ⟨low.trans step, ?_⟩
      rcases Nat.eq_or_lt_of_le step with rfl | later <;> omega

/-! ### The edges of a sound channel -/

/-- The edges counted in a window: none, or from the first stamp to the last at most four for each count (R18). -/
def GateWindow.Sound (w : GateWindow) : Prop :=
  w = GateWindow.empty ∨
    ∃ a b, w.first = some a ∧ w.last = some b ∧ 0 < w.count ∧ a ≤ b ∧ w.count ≤ 4 * (b - a + 1)

theorem GateWindow.sound_iff {w : GateWindow} : w.Sound ↔
    (w.first = none ↔ w.count = 0) ∧ (w.last = none ↔ w.count = 0) ∧
      ∀ a b, w.first = some a → w.last = some b → a ≤ b ∧ w.count ≤ 4 * (b - a + 1) := by
  obtain ⟨n, first, last⟩ := w
  rcases Nat.eq_zero_or_pos n with rfl | pos
  · cases first <;> cases last <;> simp [GateWindow.Sound, GateWindow.empty]
  · cases first <;> cases last <;> simp [GateWindow.Sound, GateWindow.empty, pos, Nat.ne_of_gt pos]

/-- The stamps that wait stand in order, at most four of each (R18). -/
def EarlySound (early : List Nat) : Prop := early.Pairwise (· ≤ ·) ∧ ∀ x, early.count x ≤ 4

/-- The latest edge of a channel whose window ends at `e`: its stamp `x`, and the `k` edges so far that share it. -/
def SensorChannel.LatestSound (c : SensorChannel) (e x k : Nat) : Prop :=
  (1 ≤ k ∧ k ≤ 4) ∧ (∀ y ∈ c.early, e ≤ y) ∧ (∀ b, c.window.last = some b → b < e ∧ b ≤ x) ∧
    (c.early = [] → x < e) ∧ (c.early ≠ [] → c.early.getLast? = some x ∧ c.early.count x = k) ∧
    (c.window.last = some x → ∀ a, c.window.first = some a → c.window.count ≤ 4 * (x - a) + k)

section
variable {c : SensorChannel} {gate e stamp x k : Nat}

/-- A channel that runs windows and has had an edge. -/
theorem SensorChannel.edgesSound_of_latest (due : c.windowEnd = some e) (latest : c.latest = some (x, k)) :
    c.EdgesSound ↔ c.window.Sound ∧ EarlySound c.early ∧ c.LatestSound e x k := by
  simp only [SensorChannel.EdgesSound, GateWindow.sound_iff, EarlySound, SensorChannel.LatestSound, due, latest, and_assoc]

/-- A channel that has had no edge. -/
theorem SensorChannel.edgesSound_of_none (latest : c.latest = none) :
    c.EdgesSound ↔ c.window = GateWindow.empty ∧ c.early = [] := by
  constructor
  · rintro ⟨first, last, -, -, rest⟩
    have edgeless : c.early = [] ∧ c.window.count = 0 := by
      rw [latest] at rest
      cases due : c.windowEnd with
      | none => rw [due] at rest; exact rest.2
      | some e => rw [due] at rest; exact rest
    obtain ⟨early, count⟩ := edgeless
    refine ⟨?_, early⟩
    rw [GateWindow.empty, GateWindow.mk.injEq]
    exact ⟨count, first.mpr count, last.mpr count⟩
  · rintro ⟨window, early⟩
    simp only [SensorChannel.EdgesSound, window, early, latest]
    cases c.windowEnd <;> simp [GateWindow.empty]

/-- A channel that runs no windows has had no edge. -/
theorem SensorChannel.EdgesSound.latest_eq_none (h : c.EdgesSound) (idle : c.windowEnd = none) : c.latest = none := by
  obtain ⟨-, -, -, -, h⟩ := h
  rw [idle] at h
  exact h.1

/-! ### An edge taken -/

/-- The edges that share a stamp are one to four (R18; log entry 15). -/
theorem SensorChannel.share_range (share : c.share stamp = some k) : 1 ≤ k ∧ k ≤ 4 := by
  rcases SensorChannel.share_eq_some.mp share with ⟨-, rfl⟩ | ⟨n, latest, room, rfl⟩ <;> omega

/-- An edge comes after the latest one, or shares its stamp. -/
theorem SensorChannel.share_of_latest {n : Nat} (latest : c.latest = some (x, n)) (share : c.share stamp = some k) :
    (x < stamp ∧ k = 1) ∨ (x = stamp ∧ k = n + 1) := by
  rcases SensorChannel.share_eq_some.mp share with ⟨absent | ⟨y, m, h, before⟩, rfl⟩ | ⟨m, h, -, rfl⟩
  · rw [latest] at absent; cases absent
  · rw [latest] at h; cases h; exact .inl ⟨before, rfl⟩
  · rw [latest] at h; cases h; exact .inr ⟨rfl, rfl⟩

/-- An edge that is to wait is the latest of those that do. -/
theorem SensorChannel.EdgesSound.early_of_share (h : c.EdgesSound) (due : c.windowEnd = some e)
    (share : c.share stamp = some k) (late : e ≤ stamp) :
    (∀ y ∈ c.early, y ≤ stamp) ∧ c.early.count stamp + 1 = k := by
  cases latest : c.latest with
  | none =>
    obtain ⟨-, early⟩ := (SensorChannel.edgesSound_of_none latest).mp h
    obtain rfl : 1 = k := by simpa [SensorChannel.share, latest] using share
    simp [early]
  | some edge =>
    obtain ⟨x, n⟩ := edge
    obtain ⟨-, ⟨ordered, -⟩, -, -, -, empty, last, -⟩ := (SensorChannel.edgesSound_of_latest due latest).mp h
    have top : ∀ y ∈ c.early, y ≤ x := fun y mem =>
      ((getLast?_eq_some_iff_of_ordered ordered).mp (last (List.ne_nil_of_mem mem)).1).2 y mem
    rcases SensorChannel.share_of_latest latest share with ⟨before, rfl⟩ | ⟨rfl, rfl⟩
    · refine ⟨fun y mem => (top y mem).trans before.le, ?_⟩
      rw [List.count_eq_zero_of_not_mem fun mem => Nat.not_le_of_gt before (top stamp mem)]
    · have waits : c.early ≠ [] := fun nil => Nat.not_lt_of_ge late (empty nil)
      exact ⟨top, by rw [(last waits).2]⟩

/-- An edge before the window's end finds no edge that waits, and its window has room for the edges of its stamp. -/
theorem SensorChannel.EdgesSound.window_of_share (h : c.EdgesSound) (due : c.windowEnd = some e)
    (share : c.share stamp = some k) (before : stamp < e) : c.early = [] ∧
      ∃ a, (c.window.add stamp).first = some a ∧ a ≤ stamp ∧ (c.window.add stamp).count ≤ 4 * (stamp - a) + k := by
  have range := SensorChannel.share_range share
  have fresh : c.window = GateWindow.empty → ∃ a, (c.window.add stamp).first = some a ∧ a ≤ stamp ∧
      (c.window.add stamp).count ≤ 4 * (stamp - a) + k := fun window =>
    ⟨stamp, by simp [window, GateWindow.add, GateWindow.empty], Nat.le_refl _,
      by simpa [window, GateWindow.add, GateWindow.empty] using range.1⟩
  cases latest : c.latest with
  | none =>
    obtain ⟨window, early⟩ := (SensorChannel.edgesSound_of_none latest).mp h
    exact ⟨early, fresh window⟩
  | some edge =>
    obtain ⟨x, n⟩ := edge
    obtain ⟨window, ⟨ordered, -⟩, ⟨low, -⟩, late, taken, -, waiting, full⟩ :=
      (SensorChannel.edgesSound_of_latest due latest).mp h
    have order := SensorChannel.share_of_latest latest share
    refine ⟨?_, window.elim fresh ?_⟩
    · by_contra waits
      obtain ⟨mem, -⟩ := (getLast?_eq_some_iff_of_ordered ordered).mp (waiting waits).1
      have := late x mem
      omega
    · rintro ⟨a, b, first, last, -, span, count⟩
      obtain ⟨-, past⟩ := taken b last
      refine ⟨a, by simp [GateWindow.add, first], by omega, ?_⟩
      change c.window.count + 1 ≤ _
      rcases Nat.eq_or_lt_of_le past with rfl | earlier
      · have := full last a first
        omega
      · omega

/-- What is sound of a channel that runs windows, whether or not it has had an edge. -/
theorem SensorChannel.EdgesSound.parts (h : c.EdgesSound) (due : c.windowEnd = some e) :
    c.window.Sound ∧ EarlySound c.early ∧ (∀ y ∈ c.early, e ≤ y) ∧ ∀ b, c.window.last = some b → b < e := by
  cases latest : c.latest with
  | none =>
    obtain ⟨window, early⟩ := (SensorChannel.edgesSound_of_none latest).mp h
    rw [window, early]
    exact ⟨.inl rfl, ⟨List.Pairwise.nil, by simp⟩, by simp, by simp [GateWindow.empty]⟩
  | some edge =>
    obtain ⟨window, early, -, late, last, -⟩ := (SensorChannel.edgesSound_of_latest due latest).mp h
    exact ⟨window, early, late, fun b at_last => (last b at_last).1⟩

/-- An edge that waits leaves the edges sound. -/
theorem SensorChannel.EdgesSound.wait (h : c.EdgesSound) (due : c.windowEnd = some e) (share : c.share stamp = some k)
    (late : e ≤ stamp) : ({ c with early := c.early ++ [stamp], latest := some (stamp, k) } : SensorChannel).EdgesSound := by
  obtain ⟨below, count⟩ := h.early_of_share due share late
  obtain ⟨window, ⟨ordered, few⟩, after, past⟩ := h.parts due
  have range := SensorChannel.share_range share
  refine (SensorChannel.edgesSound_of_latest (c := { c with early := c.early ++ [stamp], latest := some (stamp, k) })
    due rfl).mpr ⟨window, ⟨?_, fun x => ?_⟩, range, fun y mem => ?_, fun b last => ?_,
    by simp, by simp [count], fun last => ?_⟩
  · exact List.pairwise_append.mpr ⟨ordered, List.pairwise_singleton _ _, by simpa using below⟩
  · rw [List.count_append, List.count_singleton]
    split
    · next same =>
      obtain rfl : stamp = x := by simpa using same
      omega
    · exact few x
  · rcases List.mem_append.mp mem with mem | mem
    · exact after y mem
    · exact late.trans_eq (List.mem_singleton.mp mem).symm
  · have := past b last
    exact ⟨this, by omega⟩
  · exact absurd (past stamp last) (by omega)

/-- An edge counted in the window in progress leaves the edges sound. -/
theorem SensorChannel.EdgesSound.add (h : c.EdgesSound) (due : c.windowEnd = some e) (share : c.share stamp = some k)
    (before : stamp < e) :
    ({ c with window := c.window.add stamp, latest := some (stamp, k) } : SensorChannel).EdgesSound := by
  obtain ⟨nil, a, first, low, room⟩ := h.window_of_share due share before
  obtain ⟨-, early, -, -⟩ := h.parts due
  have range := SensorChannel.share_range share
  refine (SensorChannel.edgesSound_of_latest (c := { c with window := c.window.add stamp, latest := some (stamp, k) }) due rfl).mpr
    ⟨.inr ⟨a, stamp, first, rfl, Nat.succ_pos _, low, room.trans (by omega)⟩, early, range, by simp [nil], fun b last => ?_,
      fun _ => before, fun waits => absurd nil waits, fun _ a' first' => ?_⟩
  · obtain rfl : stamp = b := by simpa [GateWindow.add] using last
    exact ⟨before, Nat.le_refl _⟩
  · obtain rfl : a = a' := Option.some.inj (first.symm.trans first')
    exact room

/-- An edge leaves the edges of its channel sound. -/
theorem SensorChannel.EdgesSound.edge (h : c.EdgesSound) (due : c.windowEnd = some e) (gate stamp : Nat) :
    (c.edge gate e stamp).EdgesSound := by
  rcases SensorChannel.edge_cases c gate e stamp with same | ⟨k, share, ⟨late, waits⟩ | ⟨before, counts⟩⟩
  · rw [same]; exact h
  · rw [waits]; exact h.wait due share late
  · rw [counts]; exact h.add due share before

/-! ### A window begins -/

/-- The stamps of a list that are kept are in order, and at most four of each. -/
theorem EarlySound.filter {early : List Nat} (h : EarlySound early) (keep : Nat → Bool) : EarlySound (early.filter keep) := by
  obtain ⟨ordered, few⟩ := h
  exact ⟨ordered.filter keep, fun x => (List.filter_sublist.count_le x).trans (few x)⟩

/-- The stamps that are taken into an empty window make a sound one. -/
theorem EarlySound.window {early : List Nat} (h : EarlySound early) :
    (early.foldl (fun w t => w.add t) GateWindow.empty).Sound := by
  obtain ⟨ordered, few⟩ := h
  rw [GateWindow.foldl_add]
  cases first : early.head? with
  | none =>
    obtain rfl := List.head?_eq_none_iff.mp first
    exact .inl rfl
  | some a =>
    cases last : early.getLast? with
    | none =>
      obtain rfl := List.getLast?_eq_none_iff.mp last
      cases first
    | some b =>
      obtain ⟨low, short⟩ := length_le_of_ordered ordered few first last
      have := few b
      have pos : 0 < early.length := List.length_pos_of_mem (List.mem_of_getLast? last)
      refine .inr ⟨a, b, rfl, rfl, ?_, low, ?_⟩ <;> simp only [GateWindow.empty] <;> omega

/-- The window that begins holds the edges that have waited for it (R19). -/
theorem SensorChannel.nextWindow_window (c : SensorChannel) (gate e : Nat) : (c.nextWindow gate e).window =
    let own := c.early.filter fun t => t < e + gate
    { count := own.length, first := own.head?, last := own.getLast? } := by
  simp [SensorChannel.nextWindow, GateWindow.foldl_add, GateWindow.empty]

/-- The next window takes the edges that wait for it, and the others wait on (R19). -/
theorem SensorChannel.EdgesSound.nextWindow (h : c.EdgesSound) (due : c.windowEnd = some e) (gate : Nat) :
    (c.nextWindow gate e).EdgesSound := by
  cases latest : c.latest with
  | none =>
    obtain ⟨-, early⟩ := (SensorChannel.edgesSound_of_none latest).mp h
    have still : (c.nextWindow gate e).latest = none := latest
    exact (SensorChannel.edgesSound_of_none still).mpr (by simp [SensorChannel.nextWindow, early])
  | some edge =>
    obtain ⟨x, k⟩ := edge
    obtain ⟨-, early, range, -, -, empty, waiting, -⟩ := (SensorChannel.edgesSound_of_latest due latest).mp h
    have ordered := early.1
    have latestOf : c.early ≠ [] → (x ∈ c.early ∧ ∀ y ∈ c.early, y ≤ x) ∧ c.early.count x = k := fun waits =>
      ⟨(getLast?_eq_some_iff_of_ordered ordered).mp (waiting waits).1, (waiting waits).2⟩
    have still : (c.nextWindow gate e).latest = some (x, k) := latest
    refine (SensorChannel.edgesSound_of_latest rfl still).mpr
      ⟨(early.filter _).window, early.filter _, range, fun y mem => ?_, fun b last => ?_, fun nil => ?_, fun waits => ?_,
        fun last a first => ?_⟩
    · simpa using (List.mem_filter.mp mem).2
    · rw [SensorChannel.nextWindow_window] at last
      obtain ⟨mem, own⟩ := List.mem_filter.mp (List.mem_of_getLast? last)
      exact ⟨by simpa using own, (latestOf (List.ne_nil_of_mem mem)).1.2 b mem⟩
    · by_contra later
      have waits : c.early ≠ [] := fun nothing => later (Nat.lt_add_right gate (empty nothing))
      obtain ⟨⟨mem, -⟩, -⟩ := latestOf waits
      exact List.filter_eq_nil_iff.mp nil x mem (by simpa using later)
    · obtain ⟨y, mem⟩ := List.exists_mem_of_ne_nil _ waits
      obtain ⟨mem, later⟩ := List.mem_filter.mp mem
      obtain ⟨⟨memx, top⟩, count⟩ := latestOf (List.ne_nil_of_mem mem)
      have keep : decide (e + gate ≤ x) = true := by
        have := top y mem
        simp only [decide_eq_true_eq] at later ⊢
        omega
      exact ⟨(getLast?_eq_some_iff_of_ordered (ordered.filter _)).mpr
        ⟨List.mem_filter.mpr ⟨memx, keep⟩, fun z mem => top z (List.mem_filter.mp mem).1⟩,
          (List.count_filter (p := fun t => decide (e + gate ≤ t)) keep).trans count⟩
    · rw [SensorChannel.nextWindow_window] at last first ⊢
      obtain ⟨mem, own⟩ := List.mem_filter.mp (List.mem_of_getLast? last)
      obtain ⟨ordered, few⟩ := early.filter fun t => decide (t < e + gate)
      have short := (length_le_of_ordered ordered few first last).2
      rw [List.count_filter (p := fun t => decide (t < e + gate)) own, (latestOf (List.ne_nil_of_mem mem)).2] at short
      exact short

end

end Sys2Proof.Machine
end

section
/-! Every step keeps the sensor channels, the supply records and the cap record in range (R17 to R19, R22, R30, R104, R108, R160). -/

namespace Sys2Proof.Machine

open Sys2Proof

/-! ### A sensor channel -/

section
variable {c : SensorChannel} {e : Nat}

/-- An edge changes nothing of a channel but its edges. -/
theorem SensorChannel.edge_keeps (c : SensorChannel) (gate e stamp : Nat) :
    (c.edge gate e stamp).silent = c.silent ∧ (c.edge gate e stamp).lastCode = c.lastCode ∧
      (c.edge gate e stamp).state = c.state ∧ (c.edge gate e stamp).windowEnd = c.windowEnd := by
  rcases SensorChannel.edge_cases c gate e stamp with h | ⟨k, -, ⟨-, h⟩ | ⟨-, h⟩⟩ <;> rw [h] <;> exact ⟨rfl, rfl, rfl, rfl⟩

theorem SensorChannel.Sound.edge (h : c.Sound) (due : c.windowEnd = some e) (gate stamp : Nat) : (c.edge gate e stamp).Sound := by
  obtain ⟨silent, code, valid, edges⟩ := h
  obtain ⟨sameSilent, sameCode, sameState, -⟩ := SensorChannel.edge_keeps c gate e stamp
  rw [← sameSilent] at silent valid
  rw [← sameCode] at code valid
  rw [← sameState] at valid
  exact ⟨silent, code, valid, edges.edge due gate stamp⟩

/-- The code formed is at most 671, and the third silent window in a row ends VALID (R12, R21 to R23). -/
theorem SensorChannel.Sound.judge (h : c.Sound) (constant : Nat) :
    (c.judge constant).silent ≤ 3 ∧ (∀ a, (c.judge constant).lastCode = some a → a ≤ 671) ∧
      ((c.judge constant).state = .valid → (c.judge constant).lastCode ≠ none ∧ (c.judge constant).silent < 3) := by
  obtain ⟨silent, code, valid, -⟩ := h
  rcases Nat.lt_or_ge c.window.count 2 with quiet | good
  · rw [SensorChannel.judge_silent _ _ quiet]
    refine ⟨?_, code, fun still => ?_⟩ <;> dsimp only at *
    · split <;> omega
    · split at still
      · cases still
      · obtain ⟨present, few⟩ := valid still
        refine ⟨present, ?_⟩
        split <;> omega
  · rw [SensorChannel.judge_good _ _ good]
    refine ⟨Nat.zero_le _, fun a formed => ?_, fun _ => ⟨by simp, Nat.zero_lt_succ _⟩⟩
    cases formed
    exact Nat.min_le_left _ _

/-- The edges of a channel are not judged, only counted. -/
theorem SensorChannel.EdgesSound.judge (h : c.EdgesSound) (constant : Nat) : (c.judge constant).EdgesSound := by
  unfold SensorChannel.judge
  split
  · exact h
  · split <;> exact h

theorem SensorChannel.judge_windowEnd (c : SensorChannel) (constant : Nat) : (c.judge constant).windowEnd = c.windowEnd := by
  unfold SensorChannel.judge
  split
  · rfl
  · split <;> rfl

/-- A window's end leaves its channel sound (R20 to R23). -/
theorem SensorChannel.Sound.endWindow (h : c.Sound) (due : c.windowEnd = some e) (constant gate : Nat) :
    ((c.judge constant).nextWindow gate e).Sound := by
  obtain ⟨silent, code, valid⟩ := h.judge constant
  obtain ⟨-, -, -, edges⟩ := h
  exact ⟨silent, code, valid,
    (edges.judge constant).nextWindow ((SensorChannel.judge_windowEnd c constant).trans due) gate⟩

/-- The first window of a channel begins without edges (R17). -/
theorem SensorChannel.Sound.release (h : c.Sound) (idle : c.windowEnd = none) (due : Nat) :
    ({ c with windowEnd := some due } : SensorChannel).Sound := by
  obtain ⟨silent, code, valid, edges⟩ := h
  have fresh := edges.latest_eq_none idle
  exact ⟨silent, code, valid, (SensorChannel.edgesSound_of_none (c := { c with windowEnd := some due }) fresh).mpr
    ((SensorChannel.edgesSound_of_none fresh).mp edges)⟩

end

/-! ### The sensor channels of a state -/

theorem KeepsLater.sensors_eq {l : List Part} {s t : State} (h : KeepsLater l s t) (hl : Part.sensors ∉ l) :
    t.sensors = s.sensors := by
  obtain ⟨n, h⟩ := h
  exact (h _ hl).trans (State.passHalves_sensors n s)

/-- The channels bear on nothing but themselves and on whether the part is RUNNING. -/
theorem SensorsSound.congr {s t : State} (h : SensorsSound s) (sensors : t.sensors = s.sensors)
    (running : s.startUp.phase = .running → t.startUp.phase = .running) : SensorsSound t := by
  obtain ⟨idle, sound⟩ := h
  unfold SensorsSound
  rw [sensors]
  exact ⟨fun early => idle fun late => early (running late), sound⟩

/-- One channel that runs windows is set to a sound one. -/
theorem SensorsSound.setSensor {s : State} (h : SensorsSound s) {i : Fin 2} {e : Nat}
    (due : (s.sensors.get i).windowEnd = some e) {x : SensorChannel} (hx : x.Sound) : SensorsSound (s.setSensor i x) := by
  obtain ⟨idle, sound⟩ := h
  refine ⟨fun early => ?_, fun j => ?_⟩
  · rw [idle early i] at due
    cases due
  · rw [State.setSensor_sensors, Table.get_set]
    split
    · exact hx
    · exact sound j

theorem SensorsSound.release {s : State} (h : SensorsSound s) (early : s.startUp.phase ≠ .running) : SensorsSound s.release := by
  obtain ⟨idle, sound⟩ := h
  refine ⟨fun notYet => absurd rfl notYet, fun i => ?_⟩
  simp only [State.release, Table.get_mapWithIndex]
  split
  · exact (sound i).release (idle early i) _
  · exact sound i

theorem SensorsSound.passHalves {s : State} (h : SensorsSound s) (n : Nat) : SensorsSound (s.passHalves n) :=
  h.congr (State.passHalves_sensors _ _) fun late => by rw [State.passHalves_startUp]; exact late

theorem SensorsSound.arriveAt {s : State} (h : SensorsSound s) (t : Nat) : SensorsSound (s.arriveAt t) := h.passHalves _

/-- Starting the chains' operations, one chain after another, changes only the chains and the responder. -/
theorem State.startAll_keeps (cs : List (Fin 4)) (s : State) :
    Keeps [.chains, .responder] s (cs.foldl (fun t c => t.startHighest c) s) :=
  Keeps.foldl (fun t c => keeps_startHighest c t) cs s

theorem sensorsSound_exec {c : Instr} {s t : State} (inv : SensorsSound s) (h : exec c s = .next t) : SensorsSound t := by
  have ⟨_, sound⟩ := inv
  cases c with
  | resetAssert w => cases h; exact sensorsSound_held _ _ _
  | resetEnd straps =>
    simp only [exec, execResetEnd, Host.Outcome.next.injEq] at h
    split at h
    · next held => subst h; exact inv.congr rfl fun late => absurd (held.symm.trans late) (by simp)
    · subst h; exact inv
  | readAttempt response =>
    rcases exec_readAttempt h with rfl | ⟨-, rfl⟩
    · exact inv
    · exact (inv.arriveAt _).congr rfl id
  | readOutcome octets =>
    have sensors := (exec_keepsLater h).sensors_eq (by simp [changes])
    rcases exec_readOutcome h with rfl | ⟨n, block, reading, rfl⟩
    · exact inv
    · exact inv.congr sensors fun late => absurd (reading.symm.trans late) (by simp)
  | settlingWaitExpiry =>
    rcases exec_settlingWaitExpiry h with rfl | ⟨powering, rfl⟩
    · exact inv
    · refine ((inv.arriveAt _).release (by simp [powering])).congr (State.startAll_keeps _ _ .sensors (by simp)) fun late => ?_
      rw [State.startAll_startUp]
      exact late
  | sensorEdge i stamp =>
    cases due : (s.sensors.get i).windowEnd with
    | none =>
      rw [exec_sensorEdge_idle due] at h
      cases h
      exact inv
    | some e =>
      rw [exec_sensorEdge due] at h
      cases h
      exact (inv.arriveAt stamp).setSensor (by simpa using due) ((sound i).edge due _ _)
  | gateWindowEnd i =>
    cases due : (s.sensors.get i).windowEnd with
    | none =>
      simp only [exec, execGateWindowEnd, due] at h
      cases h
      exact inv
    | some e =>
      rw [exec_gateWindowEnd due] at h
      cases h
      rw [State.endWindow_eq, State.arriveAt_sensors]
      exact ((inv.arriveAt e).setSensor (by simpa using due) ((sound i).endWindow due _ _)).congr rfl id
  | _ =>
    have keeps := exec_keepsLater h
    refine inv.congr (keeps.sensors_eq (by simp [changes])) fun late => ?_
    rw [keeps.startUp_eq (by simp [changes])]
    exact late

/-! ### The supply records -/

theorem KeepsLater.scanner_eq {l : List Part} {s t : State} (h : KeepsLater l s t) (hl : Part.scanner ∉ l) :
    t.scanner = s.scanner := by
  obtain ⟨n, h⟩ := h
  exact (h _ hl).trans (State.passHalves_scanner n s)

/-- A sample leaves a record in its ranges, and ends one of the two runs, or both (R160). -/
theorem SupplyRecord.sampled_sound (r : SupplyRecord) (low high x : Nat) : (r.sampled low high x).Sound := by
  rcases Nat.lt_or_ge x low with below | above
  · rw [SupplyRecord.sampled_low r below]
    exact ⟨Nat.min_le_right _ _, Nat.zero_le _, .inr rfl⟩
  · rcases Nat.lt_or_ge x high with between | good
    · rw [SupplyRecord.sampled_between r above between]
      exact ⟨Nat.zero_le _, Nat.zero_le _, .inl rfl⟩
    · rw [SupplyRecord.sampled_high r above good]
      exact ⟨Nat.zero_le _, Nat.min_le_right _ _, .inl rfl⟩

theorem ScannerSound.congr {s t : State} (h : ScannerSound s) (records : t.scanner.records = s.scanner.records) :
    ScannerSound t := by
  unfold ScannerSound
  rw [records]
  exact h

theorem ScannerSound.arriveAt {s : State} (h : ScannerSound s) (t : Nat) : ScannerSound (s.arriveAt t) := h.congr (by simp)

/-- A sample is evaluated for one record, and the others stay as they are. -/
theorem ScannerSound.evaluateSample {s : State} (h : ScannerSound s) (p : Fin 4) (rest : List (Fin 4)) (sample : Nat) :
    ScannerSound (s.evaluateSample p rest sample) := by
  rw [State.evaluateSample_eq p rest sample s rfl rfl]
  intro q
  dsimp only
  rw [Table.get_set]
  split
  · exact SupplyRecord.sampled_sound _ _ _ _
  · exact h q

theorem scannerSound_exec {c : Instr} {s t : State} (inv : ScannerSound s) (h : exec c s = .next t) : ScannerSound t := by
  cases c with
  | resetAssert w => cases h; exact scannerSound_held _ _ _
  | settlingWaitExpiry =>
    rcases exec_settlingWaitExpiry h with rfl | ⟨-, rfl⟩
    · exact inv
    · exact (ScannerSound.congr (inv.arriveAt _) (t := State.release _) rfl).congr
        (congrArg Scanner.records (State.startAll_keeps _ _ .scanner (by simp)))
  | supplyScan =>
    cases due : s.scanner.scanDue with
    | none =>
      simp only [exec, execSupplyScan, due] at h
      cases h
      exact inv
    | some d =>
      rw [exec_supplyScan due] at h
      cases h
      exact inv.congr rfl
  | conversionComplete x =>
    cases queue : s.scanner.queue with
    | nil =>
      simp only [exec, execConversionComplete, queue] at h
      cases h
      exact inv
    | cons p rest =>
      rw [exec_conversionComplete x queue] at h
      cases h
      exact (inv.arriveAt _).evaluateSample p rest _
  | _ => exact inv.congr (congrArg Scanner.records ((exec_keepsLater h).scanner_eq (by simp [changes])))

/-! ### The cap record -/

theorem KeepsLater.cap_eq {l : List Part} {s t : State} (h : KeepsLater l s t) (hl : Part.cap ∉ l) : t.cap = s.cap := by
  obtain ⟨n, h⟩ := h
  exact (h _ hl).trans (State.passHalves_cap n s)

theorem CapSound.congr {s t : State} (h : CapSound s) (record : t.cap.record = s.cap.record) : CapSound t := by
  unfold CapSound
  rw [record]
  exact h

theorem CapSound.arriveAt {s : State} (h : CapSound s) (t : Nat) : CapSound (s.arriveAt t) := h.congr (by simp)

/-- A cancel leaves no record, and a setting one of at least a second (R106, R107). -/
theorem CapSound.takeCap {s : State} (h : CapSound s) (sender : Addr) (c : CapWire) (duration : Nat) :
    CapSound (s.takeCap sender c duration) := by
  unfold State.takeCap
  split
  · intro r set
    simp only [State.setCap] at set
    split at set
    · cases set
    · obtain rfl := Option.some.inj set
      simp only [capRecordOf]
      omega
  · exact h

/-- The last count of a record removes it (R108). -/
theorem CapSound.countDown {s : State} (h : CapSound s) (due : Option Nat) :
    CapSound { s with cap := ⟨s.cap.record.bind CapRecord.countDown, due⟩ } := by
  intro r counted
  obtain ⟨q, was, counted⟩ := Option.bind_eq_some_iff.mp counted
  obtain ⟨level, -, high⟩ := h q was
  unfold CapRecord.countDown at counted
  split at counted
  · cases counted
  · obtain rfl := Option.some.inj counted
    dsimp only
    omega

theorem CapSound.handOn {s : State} (h : CapSound s) (kind : BitVec 4) (sender : Addr) (payload : List Octet) :
    CapSound (s.handOn kind sender payload) := by
  unfold State.handOn
  split
  · split
    · exact h.congr (congrArg CapUnit.record (keeps_takeBeacon _ _ _ .cap (by simp)))
    · exact h
  · split
    · exact h.takeCap _ _ _
    · exact h
  · split
    · split
      · exact h.congr (congrArg CapUnit.record (keeps_answer _ _ .cap (by simp)))
      · exact h
    · exact h
  · exact h

/-- A frame heard bears on the cap record as what it is handed on to does. -/
theorem CapSound.hear {s : State} (h : CapSound s) (octets : List Octet) (kind : BitVec 4) (sender : Addr) {take : State → State}
    (taken : ∀ t, CapSound t → CapSound (take t)) : CapSound (s.hear octets kind sender take) := by
  rcases State.hear_cases octets kind sender take s with ⟨-, e⟩ | ⟨w, -, e⟩
  · rw [e]; exact h
  · have counted : CapSound (s.arriveWith w).countGood := h.congr (by simp)
    rcases e with ⟨-, -, e⟩ | ⟨-, e⟩ <;> rw [e]
    · exact counted.congr rfl
    · exact taken _ counted

theorem CapSound.hearCap {s : State} (h : CapSound s) (sender : Addr) (c : CapWire) (duration : BitVec 16) :
    CapSound (s.hearCap sender c duration) := h.hear _ _ _ fun _ sound => sound.takeCap sender c _

theorem capSound_exec {c : Instr} {s t : State} (inv : CapSound s) (h : exec c s = .next t) : CapSound t := by
  cases c with
  | resetAssert w => cases h; exact capSound_held _ _ _
  | resetEnd straps =>
    simp only [exec, execResetEnd, Host.Outcome.next.injEq] at h
    split at h <;> subst h
    · exact inv.congr rfl
    · exact inv
  | frameReceived kind sender payload =>
    cases h
    split
    · exact inv.hear _ _ _ fun t sound => sound.handOn _ _ _
    · exact inv.congr (congrArg CapUnit.record ((keepsLater_discard _ s).cap_eq (by simp)))
  | capSetting sender c duration => cases h; exact inv.hearCap sender c duration
  | capCancel sender c => cases h; exact inv.hearCap sender c 0
  | capCountdown =>
    cases h
    split
    · exact inv
    · exact (inv.arriveAt _).countDown _
  | _ => exact inv.congr (congrArg CapUnit.record ((exec_keepsLater h).cap_eq (by simp [changes])))

/-! ### Every step -/

/-- Settles O18: each of the three parts stays sound in the rows that change it, and is left alone by the others and by time. -/
theorem stepKeepsSmallRecordsSound : Obligations.StepKeepsSmallRecordsSound := by
  unfold Obligations.StepKeepsSmallRecordsSound
  refine keptByStep_of_exec (fun _ _ inv => inv) (fun s ⟨sensors, scanner, cap⟩ => ?_) fun c s t ⟨sensors, scanner, cap⟩ h =>
    ⟨sensorsSound_exec sensors h, scannerSound_exec scanner h, capSound_exec cap h⟩
  exact ⟨sensors.passHalves 2, scanner.congr (by simp), cap.congr (by simp)⟩

end Sys2Proof.Machine
end

section
/-! How a frame joins the transmit queue, and that the queue stays in order (R35, R51 to R54). -/

namespace Sys2Proof.Machine

open Sys2Proof

/-! ### The waiting order -/

/-- A frame joins behind those as urgent as itself and ahead of the others (R51). -/
theorem insertFrame_append {f : Frame} {before after : List Frame} (ahead : ∀ q ∈ before, q.urgency.code ≤ f.urgency.code)
    (behind : ∀ q ∈ after, f.urgency.code < q.urgency.code) : insertFrame f (before ++ after) = before ++ f :: after := by
  have stays : ∀ q ∈ before, staysAhead f q = true := fun q hq => by simpa [staysAhead] using ahead q hq
  cases after with
  | nil => simp [insertFrame, List.takeWhile_eq_self_iff.mpr stays, List.dropWhile_eq_nil_iff.mpr stays]
  | cons q rest =>
    have gives : staysAhead f q = false := by simpa [staysAhead] using behind q (by simp)
    simp [insertFrame, List.takeWhile_append_of_pos stays, List.dropWhile_append_of_pos stays, gives]

/-- A waiting order falls into the frames ahead of a new one and those behind it. -/
theorem exists_insertFrame {f : Frame} {queue : List Frame} (ordered : queue.Pairwise fun p q => p.urgency.code ≤ q.urgency.code) :
    ∃ before after, queue = before ++ after ∧ (∀ q ∈ before, q.urgency.code ≤ f.urgency.code) ∧
      ∀ q ∈ after, f.urgency.code < q.urgency.code := by
  induction queue with
  | nil => exact ⟨[], [], rfl, by simp, by simp⟩
  | cons p rest ih =>
    obtain ⟨least, ordered⟩ := List.pairwise_cons.mp ordered
    by_cases first : p.urgency.code ≤ f.urgency.code
    · obtain ⟨before, after, rfl, ahead, behind⟩ := ih ordered
      exact ⟨p :: before, after, rfl, by simpa [first] using ahead, behind⟩
    · refine ⟨[], p :: rest, rfl, by simp, fun q hq => ?_⟩
      rcases List.mem_cons.mp hq with rfl | hq
      · omega
      · have := least q hq; omega

theorem insertFrame_perm (f : Frame) (queue : List Frame) : (insertFrame f queue).Perm (f :: queue) := by
  have := List.takeWhile_append_dropWhile (p := staysAhead f) (l := queue)
  exact List.perm_middle.trans (by rw [this])

/-- The first waiting BEACON gives its place to the new one (R52). -/
theorem replaceBeacon_append {f q : Frame} {before after : List Frame} (none : ∀ p ∈ before, p.kind ≠ .beacon)
    (beacon : q.kind = .beacon) : replaceBeacon f (before ++ q :: after) = before ++ f :: after := by
  induction before with
  | nil => exact if_pos beacon
  | cons p rest ih =>
    have other : p.kind ≠ .beacon := none p (by simp)
    simp only [List.cons_append, replaceBeacon, other, if_false]
    rw [ih fun x hx => none x (by simp [hx])]

/-- A BEACON in a BEACON's place leaves what the two have in common. -/
theorem replaceBeacon_map {α : Type} (g : Frame → α) {f : Frame} {queue : List Frame}
    (same : ∀ q ∈ queue, q.kind = .beacon → g f = g q) : (replaceBeacon f queue).map g = queue.map g := by
  induction queue with
  | nil => rfl
  | cons p rest ih =>
    unfold replaceBeacon
    split
    · next beacon => simp [same p (by simp) beacon]
    · rw [List.map_cons, ih fun q hq => same q (by simp [hq]), List.map_cons]

theorem mem_replaceBeacon {f g : Frame} {queue : List Frame} (h : g ∈ replaceBeacon f queue) : g = f ∨ g ∈ queue := by
  induction queue with
  | nil => cases h
  | cons p rest ih =>
    unfold replaceBeacon at h
    split at h <;> rcases List.mem_cons.mp h with rfl | h
    · exact .inl rfl
    · exact .inr (by simp [h])
    · exact .inr (by simp)
    · exact (ih h).imp id fun h => by simp [h]

theorem leastUrgent_concat (queue : List Frame) (last : Frame) :
    leastUrgent (queue ++ [last]) = max (leastUrgent queue) last.urgency.code := by
  simp [leastUrgent]

theorem leastUrgent_le {n : Nat} {queue : List Frame} (h : ∀ q ∈ queue, q.urgency.code ≤ n) : leastUrgent queue ≤ n := by
  induction queue using List.reverseRecOn with
  | nil => exact Nat.zero_le n
  | append_singleton queue last ih =>
    rw [leastUrgent_concat]
    exact Nat.max_le.mpr ⟨ih fun q hq => h q (by simp [hq]), h last (by simp)⟩

/-- In a waiting order the newest frame of the least urgent class is the last one (R53). -/
theorem dropLeastUrgent_concat {queue : List Frame} {last : Frame} (h : ∀ q ∈ queue, q.urgency.code ≤ last.urgency.code) :
    dropLeastUrgent (queue ++ [last]) = queue := by
  have least : leastUrgent (queue ++ [last]) = last.urgency.code := by
    rw [leastUrgent_concat]
    exact Nat.max_eq_right (leastUrgent_le h)
  simp [dropLeastUrgent, least]

theorem concat_ordered {queue : List Frame} {last : Frame}
    (h : (queue ++ [last]).Pairwise fun p q => p.urgency.code ≤ q.urgency.code) :
    ∀ q ∈ queue, q.urgency.code ≤ last.urgency.code :=
  fun q hq => (List.pairwise_append.mp h).2.2 q hq last (by simp)

/-! ### The queue stays sound -/

theorem QueueSound.sublist {p q : List Frame} (h : QueueSound q) (less : p.Sublist q) : QueueSound p := by
  obtain ⟨room, ordered, single, sound⟩ := h
  exact ⟨less.length_le.trans room, ordered.sublist less, (less.countP_le).trans single, fun f hf => sound f (less.subset hf)⟩

/-- A frame that joins a queue with a place to spare, and is no second BEACON, leaves it sound. -/
theorem QueueSound.insertFrame {f : Frame} {queue : List Frame} (h : QueueSound queue) (sound : f.Sound)
    (room : queue.length < Config.queuePlaces) (single : ¬(f.kind = .beacon ∧ ∃ q ∈ queue, q.kind = .beacon)) :
    QueueSound (insertFrame f queue) := by
  obtain ⟨-, ordered, one, all⟩ := h
  refine ⟨by rw [insertFrame_length]; exact room, ?_, ?_, fun g hg => ?_⟩
  · obtain ⟨before, after, rfl, ahead, behind⟩ := exists_insertFrame (f := f) ordered
    rw [insertFrame_append ahead behind]
    obtain ⟨first, last, across⟩ := List.pairwise_append.mp ordered
    refine List.pairwise_append.mpr ⟨first, List.pairwise_cons.mpr ⟨fun q hq => (behind q hq).le, last⟩, fun p hp q hq => ?_⟩
    rcases List.mem_cons.mp hq with rfl | hq
    · exact ahead p hp
    · exact across p hp q hq
  · rw [(insertFrame_perm f queue).countP_eq, List.countP_cons]
    by_cases beacon : f.kind = .beacon
    · have none : queue.countP (fun q => q.kind = .beacon) = 0 :=
        List.countP_eq_zero.mpr fun q hq => by simpa using fun e => single ⟨beacon, q, hq, e⟩
      simp [none, beacon]
    · simpa [beacon] using one
  · rcases mem_insertFrame.mp hg with rfl | hg
    · exact sound
    · exact all g hg

/-- A BEACON in the place of the waiting one is as urgent as it was. -/
theorem QueueSound.replaceBeacon {f : Frame} {queue : List Frame} (h : QueueSound queue) (sound : f.Sound)
    (beacon : f.kind = .beacon) : QueueSound (replaceBeacon f queue) := by
  obtain ⟨room, ordered, one, all⟩ := h
  have kinds := replaceBeacon_map Frame.kind (f := f) (queue := queue) fun q _ hb => beacon.trans hb.symm
  have classes := replaceBeacon_map (fun q => q.urgency.code) (f := f) (queue := queue) fun q hq hb => by
    rw [sound.2.mpr beacon, (all q hq).2.mpr hb]
  refine ⟨by simpa using room, ?_, ?_, fun g hg => ?_⟩
  · rw [← List.pairwise_map (f := fun q : Frame => q.urgency.code) (R := (· ≤ ·))] at ordered ⊢
    rwa [classes]
  · have count : ∀ l : List Frame, l.countP (fun q => q.kind = .beacon) = (l.map Frame.kind).countP (· = .beacon) :=
      fun l => by rw [List.countP_map]; rfl
    rw [count] at one ⊢
    rwa [kinds]
  · rcases mem_replaceBeacon hg with rfl | hg
    · exact sound
    · exact all g hg

/-- Whatever becomes of a sound frame that is offered, the queue stays sound (R51 to R54). -/
theorem QueueSound.offer {f : Frame} {l : LineControl} (h : QueueSound l.queue) (sound : f.Sound) :
    QueueSound (l.offer f).queue := by
  rcases LineControl.offer_cases f l with ⟨-, e⟩ | ⟨-, ⟨beacon, -, e⟩ | ⟨single, ⟨room, e⟩ | ⟨full, ⟨-, e⟩ | ⟨-, e⟩⟩⟩⟩ <;> rw [e]
  · exact h
  · exact h.replaceBeacon sound beacon
  · exact h.insertFrame sound room single
  · obtain ⟨queue, last, split⟩ : ∃ queue last, l.queue = queue ++ [last] := by
      rcases List.eq_nil_or_concat' l.queue with empty | some
      · rw [empty] at full; exact absurd full (by decide)
      · exact some
    have ⟨most, ordered, _, _⟩ := h
    have dropped : dropLeastUrgent l.queue = queue := by
      rw [split] at ordered ⊢
      exact dropLeastUrgent_concat (concat_ordered ordered)
    have less : queue.Sublist l.queue := by rw [split]; exact List.sublist_append_left _ _
    show QueueSound (Machine.insertFrame f (dropLeastUrgent l.queue))
    rw [dropped]
    refine (h.sublist less).insertFrame sound ?_ fun ⟨b, q, hq, k⟩ => single ⟨b, q, less.subset hq, k⟩
    rw [split, List.length_append, List.length_singleton] at most
    omega
  · exact h

/-- Settles O28: the cases of an offer, each with the place that the frame takes in the waiting order. -/
theorem queueOffers : Obligations.QueueOffers := by
  unfold Obligations.QueueOffers
  rintro f l ⟨-, ordered, one, -⟩ -
  rcases LineControl.offer_cases f l with ⟨listens, e⟩ | ⟨sends, rest⟩
  · exact ⟨fun _ => e, fun sends => absurd (listens.symm.trans sends) (by decide)⟩
  refine ⟨fun listens => absurd (listens.symm.trans sends) (by decide), fun _ => ⟨fun before q after split hq hf => ?_,
    fun single => ⟨fun before after split room ahead behind => ?_, ?_, ?_⟩⟩⟩
  · have others : ∀ p ∈ before, p.kind ≠ .beacon := by
      rw [split, List.countP_append, List.countP_cons_of_pos (by simpa using hq)] at one
      simpa using List.countP_eq_zero.mp (show before.countP (fun p => p.kind = .beacon) = 0 by omega)
    rcases rest with ⟨-, -, e⟩ | ⟨single, -⟩
    · rw [e, split, replaceBeacon_append others hq]; rfl
    · exact absurd ⟨hf, q, by simp [split], hq⟩ single
  all_goals
    rcases rest with ⟨hf, hq, -⟩ | ⟨-, cases⟩
    · exact absurd ⟨hf, hq⟩ single
  · rcases cases with ⟨-, e⟩ | ⟨full, -⟩
    · rw [e, split, insertFrame_append ahead behind]; rfl
    · exact absurd room (Nat.not_lt.mpr full)
  · intro before last split full urgent ahead behind parts first second
    rcases cases with ⟨room, -⟩ | ⟨-, ⟨-, e⟩ | ⟨least, -⟩⟩
    · exact absurd room (by simp [full, Config.queuePlaces])
    · rw [split] at ordered
      rw [e, split, dropLeastUrgent_concat (concat_ordered ordered), parts, insertFrame_append first second]; rfl
    · exact absurd urgent (Nat.not_lt.mpr (least last (by simp [split])))
  · intro before last split full urgent
    rcases cases with ⟨room, -⟩ | ⟨-, ⟨⟨q, hq, more⟩, -⟩ | ⟨-, e⟩⟩
    · exact absurd room (by simp [full, Config.queuePlaces])
    · rw [split] at ordered hq
      have : q.urgency.code ≤ last.urgency.code := by
        rcases List.mem_append.mp hq with hq | hq
        · exact concat_ordered ordered q hq
        · rw [List.mem_singleton.mp hq]
      omega
    · rw [e]; rfl

end Sys2Proof.Machine
end

section
/-! Every step keeps the line controller and its samples in range, and a listen-only station silent (R33, R35, R37 to R39, R41, R51,
R54, R56). -/

namespace Sys2Proof.Machine

open Sys2Proof

/-! ### The line controller -/

/-- A line controller in range, and silent when it is listen-only. -/
def LineControl.Proper (l : LineControl) : Prop := l.Sound ∧ l.Silent

theorem counted_le (n : Nat) : counted n ≤ Config.counterTop := satSucc_le _ _

theorem LineControl.proper_reset (listens : Bool) : LineControl.Proper { LineControl.reset with listenOnly := listens } :=
  ⟨lineControlSound_reset, fun _ => ⟨rfl, rfl, rfl, rfl, rfl⟩⟩

section
variable {l : LineControl} (h : l.Proper)
include h

/-- A station that sends, or has something to send, is not listen-only. -/
theorem LineControl.Proper.not_listening (busy : l.sending = true ∨ l.flight ≠ none ∨ l.queue ≠ []) : l.listenOnly = false := by
  obtain ⟨-, silent⟩ := h
  by_contra listens
  obtain ⟨queue, flight, sending, -, -⟩ := silent (by simpa using listens)
  rcases busy with busy | busy | busy
  · exact absurd (sending.symm.trans busy) (by decide)
  · exact busy flight
  · exact busy queue

theorem LineControl.Proper.offer {f : Frame} (sound : f.Sound) : (l.offer f).Proper := by
  have ⟨⟨queue, flight, driven, counters, run, seq⟩, silent⟩ := h
  have drops : (l.offer f).counters.drops ≤ Config.counterTop := by
    obtain ⟨-, -, -, drops, -, -⟩ := counters
    rcases LineControl.offer_cases f l with ⟨-, e⟩ | ⟨-, ⟨-, -, e⟩ | ⟨-, ⟨-, e⟩ | ⟨-, ⟨-, e⟩ | ⟨-, e⟩⟩⟩⟩ <;> rw [e]
    · exact drops
    · exact drops
    · exact drops
    · exact counted_le _
    · exact counted_le _
  have offered := queue.offer sound
  rw [LineControl.offer_eq]
  obtain ⟨c1, c2, c3, -, c5, c6⟩ := counters
  refine ⟨⟨offered, flight, driven, ⟨c1, c2, c3, drops, c5, c6⟩, run, seq⟩, fun listens => ?_⟩
  obtain ⟨empty, quiet⟩ := silent listens
  refine ⟨?_, quiet⟩
  show (l.offer f).queue = []
  rw [show l.offer f = l from if_pos listens, empty]

theorem LineControl.Proper.becomeIdle (incomplete : Bool) : (l.becomeIdle incomplete).Proper := by
  obtain ⟨⟨queue, flight, driven, ⟨c1, c2, c3, c4, c5, c6⟩, run, seq⟩, silent⟩ := h
  cases incomplete
  · exact ⟨⟨queue, flight, driven, ⟨c1, c2, c3, c4, c5, c6⟩, run, seq⟩, silent⟩
  · exact ⟨⟨queue, flight, driven, ⟨c1, c2, c3, c4, c5, counted_le _⟩, run, seq⟩, silent⟩

theorem LineControl.Proper.countBad : l.countBad.Proper := by
  obtain ⟨⟨queue, flight, driven, ⟨c1, c2, c3, c4, c5, -⟩, run, seq⟩, silent⟩ := h
  exact ⟨⟨queue, flight, driven, ⟨c1, c2, c3, c4, c5, counted_le _⟩, run, seq⟩, silent⟩

theorem LineControl.Proper.countGood :
    LineControl.Proper { l with counters := { l.counters with good := counted l.counters.good } } := by
  obtain ⟨⟨queue, flight, driven, ⟨c1, c2, c3, c4, -, c6⟩, run, seq⟩, silent⟩ := h
  exact ⟨⟨queue, flight, driven, ⟨c1, c2, c3, c4, counted_le _, c6⟩, run, seq⟩, silent⟩

/-- The suspension, the clash quiet timer and the beacon slot do not bear on it. -/
theorem LineControl.Proper.timers (suspended : Bool) (clash beacon : Option Nat) :
    LineControl.Proper { l with suspended := suspended, clashEnd := clash, beaconDue := beacon } := h

/-- A station that is ready takes a sound frame in flight (R34). -/
theorem LineControl.Proper.start (ready : l.ready = true) (t : Nat) :
    LineControl.Proper { l.launch with sending := true, startedAt := t, drivesUntil := none } := by
  simp only [LineControl.ready, Bool.and_eq_true, Bool.not_eq_true', Bool.or_eq_true, List.isEmpty_eq_false_iff] at ready
  obtain ⟨⟨sends, -⟩, some⟩ := ready
  obtain ⟨⟨queue, flight, driven, counters, run, seq⟩, -⟩ := h
  cases inFlight : l.flight with
  | some f =>
    rw [show l.launch = l by simp [LineControl.launch, inFlight]]
    exact ⟨⟨queue, flight, fun _ => by simp [inFlight], counters, run, seq⟩,
      fun listens => absurd (sends.symm.trans listens) (by decide)⟩
  | none =>
    cases waiting : l.queue with
    | nil => simp [inFlight, waiting] at some
    | cons f rest =>
      have whole := queue
      rw [waiting] at whole
      have ⟨_, _, _, sound⟩ := whole
      rw [show l.launch = { l with flight := .some ⟨f, 0⟩, queue := rest } by simp [LineControl.launch, inFlight, waiting]]
      refine ⟨⟨whole.sublist (List.sublist_cons_self f rest), ?_, by simp, counters, run, seq⟩,
        fun listens => absurd (sends.symm.trans listens) (by decide)⟩
      rintro g ⟨⟩
      exact ⟨sound f (by simp), show 0 < 3 by decide⟩

theorem LineControl.Proper.lose : l.lose.Proper := by
  obtain ⟨⟨queue, flight, -, ⟨c1, -, c3, c4, c5, c6⟩, run, seq⟩, silent⟩ := h
  refine ⟨⟨queue, flight, by simp [LineControl.lose], ⟨c1, counted_le _, c3, c4, c5, c6⟩, run, seq⟩, fun listens => ?_⟩
  obtain ⟨empty, none, -, undriven, first⟩ := silent listens
  exact ⟨empty, none, rfl, undriven, first⟩

theorem LineControl.Proper.finishSend : l.finishSend.Proper := by
  obtain ⟨⟨queue, -, -, ⟨-, c2, c3, c4, c5, c6⟩, -, seq⟩, silent⟩ := h
  refine ⟨⟨queue, by simp [LineControl.finishSend], by simp [LineControl.finishSend], ⟨counted_le _, c2, c3, c4, c5, c6⟩,
    satSucc_le _ _, seq⟩, fun listens => ?_⟩
  obtain ⟨empty, -, -, undriven, first⟩ := silent listens
  exact ⟨empty, rfl, rfl, undriven, first⟩

/-- An abort that the frame in flight survives (R37). -/
theorem LineControl.Proper.abort {f : Flight} (inFlight : l.flight = some f) (survives : f.aborts + 1 < Config.abortLimit)
    (stop : Option Nat) : (l.abort f stop).Proper := by
  have sends := h.not_listening (.inr (.inl (by simp [inFlight])))
  obtain ⟨⟨queue, flight, -, ⟨c1, c2, -, c4, c5, c6⟩, -, seq⟩, -⟩ := h
  obtain ⟨sound, -⟩ := flight f inFlight
  refine ⟨⟨queue, ?_, by simp [LineControl.abort], ⟨c1, c2, counted_le _, c4, c5, c6⟩, Nat.zero_le _, seq⟩,
    fun listens => absurd (sends.symm.trans listens) (by decide)⟩
  rintro g ⟨⟩
  exact ⟨sound, survives⟩

/-- An abort at which the frame in flight is dropped (R37). -/
theorem LineControl.Proper.drop {f : Flight} (inFlight : l.flight = some f) (stop : Option Nat) :
    (l.abort f stop).dropFlight.Proper := by
  have sends := h.not_listening (.inr (.inl (by simp [inFlight])))
  obtain ⟨⟨queue, -, -, ⟨c1, c2, -, -, c5, c6⟩, -, seq⟩, -⟩ := h
  exact ⟨⟨queue, by simp [LineControl.dropFlight], by simp [LineControl.dropFlight, LineControl.abort],
    ⟨c1, c2, counted_le _, counted_le _, c5, c6⟩, Nat.zero_le _, seq⟩,
    fun listens => absurd (sends.symm.trans listens) (by decide)⟩

/-- The sequence number of a station that sends rises by 1 mod 256 (R55). -/
theorem LineControl.Proper.nextBeacon (sends : l.listenOnly = false) (due : Option Nat) :
    LineControl.Proper { l with seq := (l.seq + 1) % 256, beaconDue := due } := by
  obtain ⟨⟨queue, flight, driven, counters, run, -⟩, -⟩ := h
  exact ⟨⟨queue, flight, driven, counters, run, Nat.mod_lt _ (by decide)⟩,
    fun listens => absurd (sends.symm.trans listens) (by decide)⟩

end

/-! ### The samples -/

section
variable {w : LineSamples}

/-- Where a frame is being assembled the line is not idle, and other stations may drive it (R33, R41; log entry 5). -/
theorem LineSamples.Sound.busy (h : w.Sound) {read : List Level} (begun : w.assembler.read = some read) :
    w.idle = false ∧ w.quiet = false := by
  obtain ⟨-, -, -, idle, -, quiet, -⟩ := h
  constructor <;> by_contra on
  · have ⟨_, empty⟩ := idle (by simpa using on)
    rw [empty] at begun; cases begun
  · rcases quiet (by simpa using on) with none | none <;> rw [none] at begun <;> cases begun

/-- After a frame that has been dealt with the assembler is empty, or takes no further characters. -/
theorem LineSamples.Sound.dealtWith (h : w.Sound) {quiet : Bool} {a : Assembler}
    (done : a = .empty ∨ (a = .ignoring ∧ w.idle = false)) :
    LineSamples.Sound { w with quiet := quiet, assembler := a } := by
  obtain ⟨most, mostStuck, one, idle, stuck, -, -⟩ := h
  rcases done with rfl | ⟨rfl, busy⟩
  · exact ⟨most, mostStuck, one, fun on => ⟨(idle on).1, rfl⟩, stuck, fun _ => .inl rfl, rfl⟩
  · exact ⟨most, mostStuck, one, fun on => absurd (busy.symm.trans on) (by decide), stuck, fun _ => .inr rfl, rfl⟩

/-- Other stations may drive a line again. -/
theorem LineSamples.Sound.unquiet (h : w.Sound) : LineSamples.Sound { w with quiet := false } := by
  obtain ⟨most, mostStuck, one, idle, stuck, -, assembly⟩ := h
  exact ⟨most, mostStuck, one, idle, stuck, nofun, assembly⟩

/-- The line idle after its twelfth recessive sample (R33, R41). -/
theorem LineSamples.Sound.becomeIdle (h : w.Sound) (twelfth : w.idleCount = Config.idleBits) : w.becomeIdle.Sound := by
  obtain ⟨most, mostStuck, one, -, stuck, -, -⟩ := h
  exact ⟨most, mostStuck, one, fun _ => ⟨twelfth, rfl⟩, stuck, nofun, rfl⟩

/-- Whether a station drives the line does not bear on what its samples make of it. -/
theorem LineSamples.readFrom_setQuiet (bitTime now : Nat) (quiet : Bool) (ls : List Level) (w : LineSamples) :
    LineSamples.readFrom bitTime now ls { w with quiet := quiet } = { w.readFrom bitTime now ls with quiet := quiet } := by
  induction ls generalizing now w with
  | nil => rfl
  | cons l rest ih =>
    have one : LineSamples.sample bitTime now { w with quiet := quiet } l = { w.sample bitTime now l with quiet := quiet } := by
      cases l <;> rfl
    rw [LineSamples.readFrom_cons, one, ih, LineSamples.readFrom_cons]

/-- The samples up to the 65th dominant one of a run (R39). -/
theorem LineSamples.readOn_toStuck_stuckCount (bitTime : Nat) (h : w.stuckCount ≤ Config.stuckBits) :
    (w.readOn bitTime w.toStuck).stuckCount = Config.stuckBits := by
  have run : ∀ (v : LineSamples) (now n : Nat), v.stuckCount + n = Config.stuckBits →
      (v.readFrom bitTime now (List.replicate n .dominant)).stuckCount = Config.stuckBits := by
    intro v now n total
    cases n with
    | zero => exact total
    | succ n =>
      rw [LineSamples.readFrom_dominant]
      show min (v.stuckCount + (n + 1)) Config.stuckBits = Config.stuckBits
      omega
  unfold LineSamples.readOn LineSamples.toStuck
  split
  · exact run _ _ _ (Nat.zero_add _)
  · exact run _ _ _ (Nat.add_sub_cancel' h)

theorem LineSamples.Sound.becomeStuck (h : w.Sound) (bitTime : Nat) : (w.becomeStuck bitTime).Sound := by
  have counted := LineSamples.readOn_toStuck_stuckCount bitTime h.2.1
  have read : LineSamples.Sound { w.readOn bitTime w.toStuck with quiet := false } := by
    unfold LineSamples.readOn
    rw [← LineSamples.readFrom_setQuiet]
    exact LineSamples.readFrom_sound h.unquiet (.inl rfl)
  obtain ⟨most, mostStuck, one, idle, -, -, assembly⟩ := read
  exact ⟨most, mostStuck, one, idle, fun _ => counted, nofun, assembly⟩

/-- The first dominant sample on an idle line (R33). -/
theorem LineSamples.Sound.leaveIdle (h : w.Sound) (bitTime now : Nat) :
    LineSamples.Sound { w.sample bitTime now .dominant with quiet := false } :=
  LineSamples.sample_sound (w := { w with quiet := false }) (l := .dominant) h.unquiet (.inl rfl)

end

section
variable {s : State} (h : s.wire.Sound)

theorem State.ownRead_sound (s : State) (ls : List Level) : (s.ownRead ls).Sound :=
  LineSamples.readFrom_sound (LineSamples.atStart_sound _) (.inl rfl)

theorem State.sentSamples_sound (s : State) : s.sentSamples.Sound := (s.ownRead_sound _).dealtWith (.inl rfl)

include h

/-- The samples of the rest of a frame in assembly (R41). -/
theorem State.lineAfter_sound {levels : List Level} {v : LineSamples} (e : s.lineAfter levels = some v) :
    v.Sound ∧ v.idle = false := by
  unfold State.lineAfter at e
  split at e
  · obtain ⟨more, begun, rfl⟩ := Option.map_eq_some_iff.mp e
    cases read : s.wire.assembler.read with
    | none => simp [Assembler.rest, read] at begun
    | some ls =>
      obtain ⟨idle, quiet⟩ := h.busy read
      exact ⟨LineSamples.readOn_sound h (.inl quiet), (LineSamples.readFrom_busy _ _ _ _ idle).1⟩
  · cases e

theorem State.lineAfterGood_sound {octets : List Octet} {w : LineSamples} (e : s.lineAfterGood octets = some w) : w.Sound := by
  obtain ⟨v, after, -, -, rfl⟩ := State.lineAfterGood_eq_some.mp e
  exact (State.lineAfter_sound h after).1.dealtWith (.inl rfl)

theorem State.lineAtDiscard_sound {cause : DiscardCause} {w : LineSamples} (e : s.lineAtDiscard cause = some w) : w.Sound := by
  have bad : ∀ levels finish ends quiet, s.lineAfterBad levels finish ends quiet = some w →
      (∀ v : LineSamples, v.Sound → v.idle = false → (finish v).Sound ∧ (finish v).idle = false) → w.Sound := by
    intro levels finish ends quiet e finishes
    obtain ⟨v, after, e⟩ := Option.bind_eq_some_iff.mp e
    obtain ⟨sound, busy⟩ := State.lineAfter_sound h after
    obtain ⟨sound, busy⟩ := finishes v sound busy
    split at e
    · cases e; exact sound.dealtWith (.inr ⟨rfl, busy⟩)
    · cases e
  cases cause with
  | framingError octets => exact bad _ _ _ _ e fun v sound busy => ⟨sound, busy⟩
  | badLength octets => exact bad _ _ _ _ e fun v sound busy => ⟨sound, busy⟩
  | idleBeforeComplete octets =>
    exact bad _ _ _ _ e fun v sound busy => ⟨LineSamples.toTwelfth_sound sound, (LineSamples.readFrom_busy _ _ _ _ busy).1⟩
  | badCheck octets =>
    simp only [State.lineAtDiscard] at e
    split at e
    · cases e
    · exact bad _ _ _ _ e fun v sound busy => ⟨sound, busy⟩

end

/-! ### The frames that the part offers -/

/-- The line controller of `t` is that of `s`, to which at most one sound frame has been offered. -/
def Offers (s t : State) : Prop := t.line = s.line ∨ ∃ f : Frame, f.Sound ∧ t.line = s.line.offer f

theorem Offers.of_keeps {l : List Part} {s t : State} (h : Keeps l s t) (hl : Part.line ∉ l) : Offers s t := .inl (h .line hl)

/-- What leaves the line controller alone first does not bear on what is offered. -/
theorem Offers.after {l : List Part} {s t u : State} (h : Keeps l s t) (hl : Part.line ∉ l) (k : Offers t u) : Offers s u := by
  unfold Offers at k ⊢
  rwa [h .line hl] at k

theorem Offers.proper {s t : State} (h : Offers s t) (proper : s.line.Proper) : t.line.Proper := by
  rcases h with e | ⟨f, sound, e⟩ <;> rw [e]
  · exact proper
  · exact proper.offer sound

/-- A REPLY with data of at most 18 octets (R35, R185). -/
theorem offers_reply {data : List Octet} (short : data.length ≤ 18) (q : Query) (status : ReplyStatus) (s : State) :
    Offers s (s.reply q status data) := by
  obtain ⟨f, kind, urgency, -, length, e⟩ := State.reply_eq q status data s
  refine .inr ⟨f, ⟨?_, by simp [kind, urgency]⟩, by rw [e]; rfl⟩
  rw [length]
  exact Nat.add_le_add_right short 6

@[simp] theorem twoOctets_length (n : Nat) : (twoOctets n).length = 2 := rfl
@[simp] theorem fourOctets_length (w : BitVec 32) : (fourOctets w).length = 4 := rfl

theorem faultEntry_length (header : Nat) (r : Option FaultRecord) : (faultEntry header r).length = 6 := by cases r <;> rfl

theorem faultsData_length (t : FaultTable) (page : Nat) : (faultsData t page).length = 18 := by
  simp [faultsData, faultEntry_length]

theorem tileData_length (t : TileRecord) : (tileData t).length = 5 := by
  unfold tileData
  split <;> rfl

theorem viewData_length (t : NeighbourTable) (i : Fin 32) : (viewData t i).length ≤ 18 := by
  unfold viewData
  split
  · exact Nat.le_refl _
  · split <;> decide

theorem levelsData_length (s : State) : (levelsData s).length = 16 := rfl

theorem chainData_length (s : State) (c : Fin 4) : (chainData s c).length = 8 := rfl

theorem lineData_length (s : State) : (lineData s).length = 13 := rfl

theorem offers_answerBadItem (q : Query) (s : State) : Offers s (s.answerBadItem q) := offers_reply (by simp) _ _ _

theorem offers_answerFaults (q : Query) (s : State) : Offers s (s.answerFaults q) := by
  unfold State.answerFaults
  split
  · exact offers_reply (faultsData_length _ _).le _ _ _
  · exact offers_answerBadItem _ _

theorem offers_answerTile (q : Query) (s : State) : Offers s (s.answerTile q) := by
  unfold State.answerTile
  split
  · dsimp only
    split
    · exact offers_reply (by simp [tileData_length]) _ _ _
    · exact offers_reply (by simp) _ _ _
  · exact offers_answerBadItem _ _

theorem offers_answerView (q : Query) (s : State) : Offers s (s.answerView q) := by
  unfold State.answerView
  split
  · exact offers_reply (viewData_length _ _) _ _ _
  · exact offers_answerBadItem _ _

theorem offers_answerLevels (q : Query) (s : State) : Offers s (s.answerLevels q) :=
  offers_reply (by simp [levelsData_length]) _ _ _

theorem offers_answerChain (q : Query) (s : State) : Offers s (s.answerChain q) := by
  unfold State.answerChain
  split
  · exact offers_reply (by simp [chainData_length]) _ _ _
  · exact offers_answerBadItem _ _

theorem offers_answerLine (q : Query) (s : State) : Offers s (s.answerLine q) := offers_reply (by simp [lineData_length]) _ _ _

theorem offers_firstAsk (q : Query) (i : Fin 64) (s : State) : Offers s (s.firstAsk q i) := by
  unfold State.firstAsk
  dsimp only
  split
  · exact offers_reply (by simp) _ _ _
  · exact .after (keeps_setDeferred _ s) (by simp) (.after (keeps_postDetail _ _ _) (by simp) (offers_reply (by simp) _ _ _))

theorem offers_askAgain (q : Query) (d : Deferred) (s : State) : Offers s (s.askAgain q d) := by
  unfold State.askAgain
  split
  · split
    · exact offers_reply (by simp) _ _ _
    · exact .after (keeps_setDeferred _ s) (by simp) (offers_reply (by simp [detailData]) _ _ _)
    · exact .after (keeps_setDeferred _ s) (by simp) (offers_reply (by simp) _ _ _)
  · exact offers_reply (by simp) _ _ _

theorem offers_answerTileDetail (q : Query) (s : State) : Offers s (s.answerTileDetail q) := by
  unfold State.answerTileDetail
  split
  · split
    · exact offers_firstAsk _ _ _
    · exact offers_askAgain _ _ _
  · exact offers_answerBadItem _ _

theorem offers_answer (q : Query) (s : State) : Offers s (s.answer q) := by
  unfold State.answer
  split
  · exact offers_answerFaults _ _
  · exact offers_answerTile _ _
  · exact offers_answerTileDetail _ _
  · exact offers_answerView _ _
  · exact offers_answerLevels _ _
  · exact offers_answerChain _ _
  · exact offers_answerLine _ _
  · exact offers_answerBadItem _ _

theorem offers_handOn (kind : BitVec 4) (sender : Addr) (payload : List Octet) (s : State) :
    Offers s (s.handOn kind sender payload) := by
  unfold State.handOn
  split
  · split
    · exact .of_keeps (keeps_takeBeacon _ _ s) (by simp)
    · exact .inl rfl
  · split
    · exact .of_keeps (keeps_takeCap _ _ _ s) (by simp)
    · exact .inl rfl
  · split
    · split
      · exact offers_answer _ _
      · exact .inl rfl
    · exact .inl rfl
  · exact .inl rfl

/-- The beacon built is a sound frame (R54, R55). -/
theorem beaconFrame_sound (s : State) : s.beaconFrame.Sound := ⟨show 12 ≤ 24 by decide, by simp [State.beaconFrame]⟩

/-- A take offers at most one notice (R178). -/
theorem offers_takeAction (kind : FaultKind) (source : Source) (action : FaultAction) (s : State) :
    Offers s (State.takeAction kind source action s) := by
  obtain ⟨table, line, e, same | ⟨f, notice, urgency, short, -, offered⟩⟩ := State.takeAction_cases kind source action s <;> rw [e]
  · exact .inl same
  · exact .inr ⟨f, ⟨short.trans (by decide), by simp [notice, urgency]⟩, offered⟩

/-! ### The line of a state -/

/-- The line controller of a state is proper and its samples are sound. -/
def LineInRange (s : State) : Prop := s.line.Proper ∧ s.wire.Sound

/-- A part held in reset has a line controller as after reset. -/
def HeldLineIsReset (s : State) : Prop :=
  s.startUp.phase = .resetHeld → s.line = LineControl.reset ∧ s.wire = LineSamples.reset

theorem lineSound_iff {s : State} : LineSound s ↔ LineInRange s ∧ HeldLineIsReset s :=
  ⟨fun ⟨line, wire, silent, held⟩ => ⟨⟨⟨line, silent⟩, wire⟩, held⟩, fun ⟨⟨⟨line, silent⟩, wire⟩, held⟩ => ⟨line, wire, silent, held⟩⟩

theorem LineInRange.congr {s t : State} (h : LineInRange s) (line : t.line = s.line) (wire : t.wire = s.wire) : LineInRange t := by
  unfold LineInRange
  rw [line, wire]
  exact h

theorem LineInRange.passHalves {s : State} (h : LineInRange s) (n : Nat) : LineInRange (s.passHalves n) := by
  obtain ⟨proper, sound⟩ := h
  exact ⟨by rwa [State.passHalves_line], State.passHalves_sound n sound⟩

theorem LineInRange.arriveAt {s : State} (h : LineInRange s) (t : Nat) : LineInRange (s.arriveAt t) := h.passHalves _

/-- A row that names neither the line controller nor its samples leaves them to the passing of time. -/
theorem LineInRange.later {l : List Part} {s t : State} (h : LineInRange s) (k : KeepsLater l s t)
    (hl : Part.line ∉ l ∧ Part.wire ∉ l) : LineInRange t := by
  obtain ⟨n, k⟩ := k
  exact (h.passHalves n).congr (k .line hl.1) (k .wire hl.2)

/-- The row of an operation that at most offers a frame. -/
theorem LineInRange.offers {l : List Part} {s t : State} (h : LineInRange s) (offers : Offers s t) (k : Keeps l s t)
    (hl : Part.wire ∉ l) : LineInRange t := by
  obtain ⟨proper, sound⟩ := h
  exact ⟨offers.proper proper, by rwa [k .wire hl]⟩

theorem LineInRange.arriveWith {s : State} (h : LineInRange s) {w : LineSamples} (sound : w.Sound) : LineInRange (s.arriveWith w) := by
  obtain ⟨proper, -⟩ := h
  exact ⟨by rwa [State.arriveWith_line], sound⟩

/-- A good frame is counted, and held back or handed on (R42 to R44). -/
theorem LineInRange.hear {l : List Part} {s : State} (h : LineInRange s) (octets : List Octet) (kind : BitVec 4) (sender : Addr)
    {take : State → State} (offers : ∀ t, Offers t (take t)) (keeps : ∀ t, Keeps l t (take t)) (hl : Part.wire ∉ l) :
    LineInRange (s.hear octets kind sender take) := by
  have ⟨_, sound⟩ := h
  have counted : ∀ w, s.lineAfterGood octets = some w → LineInRange (s.arriveWith w).countGood := fun w good => by
    have ⟨proper, sound⟩ := h.arriveWith (State.lineAfterGood_sound sound good)
    exact ⟨proper.countGood, sound⟩
  rcases State.hear_cases octets kind sender take s with ⟨-, e⟩ | ⟨w, good, ⟨-, -, e⟩ | ⟨-, e⟩⟩ <;> rw [e]
  · exact h
  · obtain ⟨proper, sound⟩ := counted w good
    exact ⟨proper.timers _ _ _, sound⟩
  · exact (counted w good).offers (offers _) (keeps _) hl

/-- A query heard, whose answer at most offers a frame and leaves the samples alone. -/
theorem LineInRange.hearQuery {l : List Part} {s : State} (h : LineInRange s) (q : Query) {respond : State → State}
    (offers : ∀ t, Offers t (respond t)) (keeps : ∀ t, Keeps l t (respond t)) (hl : Part.wire ∉ l) :
    LineInRange (s.hearQuery q respond) := by
  refine h.hear (l := l) _ _ _ (fun t => ?_) (fun t => ?_) hl <;> split
  · exact offers t
  · exact .inl rfl
  · exact keeps t
  · exact Keeps.refl

theorem LineInRange.discard {s : State} (h : LineInRange s) (cause : DiscardCause) : LineInRange (s.discard cause) := by
  have ⟨proper, sound⟩ := h
  rcases State.discard_cases cause s with ⟨-, e⟩ | ⟨w, bad, -, e⟩ <;> rw [e]
  · exact h
  · exact ⟨proper.countBad, State.lineAtDiscard_sound sound bad⟩

theorem LineInRange.becomeIdle {s : State} (h : LineInRange s) {w : LineSamples} (sound : w.Sound)
    (twelfth : w.idleCount = Config.idleBits) : LineInRange (s.becomeIdle w) := by
  obtain ⟨proper, -⟩ := h
  have idle : LineInRange ((s.setLine (s.line.becomeIdle w.assembler.holdsFrame)).setWire w.becomeIdle) :=
    ⟨proper.becomeIdle _, sound.becomeIdle twelfth⟩
  unfold State.becomeIdle
  dsimp only
  split
  · exact idle.congr rfl rfl
  · exact idle

theorem LineInRange.abortFlight {s : State} (h : LineInRange s) {f : Flight} (inFlight : s.line.flight = some f)
    (stop : Option Nat) : LineInRange (s.abortFlight f stop) := by
  obtain ⟨proper, sound⟩ := h
  unfold State.abortFlight
  split
  · exact ⟨proper.drop inFlight stop, sound⟩
  · next survives => exact ⟨proper.abort inFlight (Nat.not_le.mp survives) stop, sound⟩

theorem LineInRange.finishSend {s : State} (h : LineInRange s) : LineInRange s.finishSend := by
  obtain ⟨proper, sound⟩ := h
  have sent : LineInRange (s.setLine s.line.finishSend) := ⟨proper.finishSend, sound⟩
  unfold State.finishSend
  dsimp only
  split
  · exact sent.congr rfl rfl
  · exact sent

theorem LineInRange.buildBeacon {s : State} (h : LineInRange s) (sends : s.line.listenOnly = false) (d : Nat) :
    LineInRange (s.buildBeacon d) := by
  obtain ⟨proper, sound⟩ := h
  exact ⟨(proper.nextBeacon sends _).offer (beaconFrame_sound s), sound⟩

theorem LineInRange.takeRequest {s : State} (h : LineInRange s) (kind : FaultKind) (source : Source) (action : FaultAction) :
    LineInRange (s.takeRequest kind source action) := by
  have ensured : LineInRange (s.ensureRequest kind source action) := by
    rcases State.ensureRequest_cases kind source action s with e | e <;> rw [e]
    · exact h
    · exact h.congr rfl rfl
  have begun : LineInRange (s.ensureRequest kind source action).beginTake := (ensured.arriveAt _).congr rfl rfl
  rcases State.takeRequest_cases kind source action s with e | ⟨-, e⟩ <;> rw [e]
  · exact ensured
  · have free : LineInRange { (s.ensureRequest kind source action).beginTake with
        requests := dropRequest kind source action (s.ensureRequest kind source action).requests } := begun.congr rfl rfl
    exact free.offers (offers_takeAction _ _ _ _) (keeps_takeAction _ _ _ _) (by simp)

theorem LineInRange.release {s : State} (h : LineInRange s) : LineInRange s.release := by
  obtain ⟨proper, -⟩ := h
  exact ⟨proper.timers _ _ _, lineSamplesSound_reset⟩

/-! ### The commands -/

/-- A part held in reset does nothing at its line before reset ends: nothing of it runs (R57, R211). -/
theorem exec_held_line {c : Instr} {s t : State} (held : s.startUp.phase = .resetHeld) (reset : s.line = LineControl.reset)
    (begins : ∀ w, c ≠ .resetAssert w) (ends : ∀ straps, c ≠ .resetEnd straps) (h : exec c s = .next t) :
    t.line = s.line ∧ t.wire = s.wire := by
  have still : s.running = false := by simp [State.running, held]
  have idle : exec c s = .next s → t.line = s.line ∧ t.wire = s.wire := fun e => by
    rw [e] at h; cases h; exact ⟨rfl, rfl⟩
  cases c with
  | resetAssert w => exact absurd rfl (begins w)
  | resetEnd straps => exact absurd rfl (ends straps)
  | settlingWaitExpiry => exact idle (by simp [exec, execSettlingWaitExpiry, held])
  | lineIdle => exact idle (by simp [exec, execLineIdle, still])
  | stuckDominant => exact idle (by simp [exec, execStuckDominant, still])
  | frameStart => exact idle (by simp [exec, execFrameStart, still])
  | arbitrationLoss => exact idle (by simp [exec, execArbitrationLoss, still])
  | bitError => exact idle (by simp [exec, execBitError, still])
  | frameSent => exact idle (by simp [exec, execFrameSent, still])
  | frameDiscard => exact idle (by simp [exec, execFrameDiscard, State.discard_of_not_running still])
  | frameReceived =>
    exact idle (by simp [exec, execFrameReceived, State.hear_of_not_running still, State.discard_of_not_running still])
  | clashQuietExpiry => exact idle (by simp [exec, execClashQuietExpiry, reset, LineControl.reset])
  | beaconReceived => exact idle (by simp [exec, execBeaconReceived, State.hear_of_not_running still])
  | capSetting => exact idle (by simp [exec, execCapSetting, State.hearCap, State.hear_of_not_running still])
  | capCancel => exact idle (by simp [exec, execCapCancel, State.hearCap, State.hear_of_not_running still])
  | queryBadItem => exact idle (by simp [exec, execQueryBadItem, State.hearQuery, State.hear_of_not_running still])
  | faults => exact idle (by simp [exec, execFaults, State.hearQuery, State.hear_of_not_running still])
  | tile => exact idle (by simp [exec, execTile, State.hearQuery, State.hear_of_not_running still])
  | tileDetail => exact idle (by simp [exec, execTileDetail, State.hearQuery, State.hear_of_not_running still])
  | view => exact idle (by simp [exec, execView, State.hearQuery, State.hear_of_not_running still])
  | levels => exact idle (by simp [exec, execLevels, State.hearQuery, State.hear_of_not_running still])
  | chain => exact idle (by simp [exec, execChain, State.hearQuery, State.hear_of_not_running still])
  | line => exact idle (by simp [exec, execLine, State.hearQuery, State.hear_of_not_running still])
  | beaconBuild => exact idle (by simp [exec, execBeaconBuild, reset, LineControl.reset])
  | faultRaise => exact idle (by simp [exec, execFaultRaise, held])
  | faultWithdraw => exact idle (by simp [exec, execFaultWithdraw, held])
  | lineLeavesIdle => exact idle (by simp [exec, execLineLeavesIdle, still])
  | _ =>
    obtain ⟨n, keeps⟩ := exec_keepsLater h
    rw [State.passHalves_held n s held] at keeps
    exact ⟨keeps .line (by simp [changes]), keeps .wire (by simp [changes])⟩

theorem heldLineIsReset_exec {c : Instr} {s t : State} (inv : HeldLineIsReset s) (h : exec c s = .next t) : HeldLineIsReset t := by
  intro held
  by_cases begins : ∃ w, c = .resetAssert w
  · obtain ⟨w, rfl⟩ := begins
    cases h
    exact ⟨rfl, rfl⟩
  · obtain ⟨was, ends⟩ := exec_to_held (not_exists.mp begins) h held
    obtain ⟨line, wire⟩ := inv was
    obtain ⟨sameLine, sameWire⟩ := exec_held_line was line (not_exists.mp begins) ends h
    exact ⟨sameLine.trans line, sameWire.trans wire⟩

theorem lineInRange_exec {c : Instr} {s t : State} (inv : LineInRange s) (heldReset : HeldLineIsReset s)
    (h : exec c s = .next t) : LineInRange t := by
  have ⟨proper, sound⟩ := inv
  cases c with
  | resetAssert w => cases h; exact ⟨LineControl.proper_reset false, lineSamplesSound_reset⟩
  | resetEnd straps =>
    cases h
    split
    · next held =>
      obtain ⟨line, -⟩ := heldReset held
      refine ⟨?_, sound⟩
      show LineControl.Proper { s.line with listenOnly := _ }
      rw [line]
      exact LineControl.proper_reset _
    · exact inv
  | settlingWaitExpiry =>
    rcases exec_settlingWaitExpiry h with rfl | ⟨-, rfl⟩
    · exact inv
    · exact (inv.arriveAt _).release.later (State.startAll_keeps _ _).later (by simp)
  | lineIdle =>
    cases h
    split
    · exact (inv.arriveAt _).becomeIdle (LineSamples.toTwelfth_sound sound) (LineSamples.toTwelfth_idleCount sound.1)
    · exact inv
  | stuckDominant =>
    cases h
    split
    · exact ⟨by simpa [State.stick] using proper.timers true _ _, sound.becomeStuck _⟩
    · exact inv
  | frameStart =>
    cases h
    split
    · next can =>
      obtain ⟨-, ready⟩ := Bool.and_eq_true_iff.mp can
      exact ⟨proper.start ready _, LineSamples.atStart_sound _⟩
    · exact inv
  | arbitrationLoss =>
    cases h
    split
    · split
      · exact ⟨proper.lose, State.ownRead_sound _ _⟩
      · exact inv
    · exact inv
  | bitError =>
    cases h
    split
    · split
      · next f k inFlight _ =>
        have misread : LineInRange ((s.arriveAt (s.bitMiddle k)).misread k (s.line.otherLevel k)) :=
          ⟨by simpa using proper, State.ownRead_sound _ _⟩
        exact misread.abortFlight (by simpa using inFlight) _
      · exact inv
    · exact inv
  | frameSent =>
    cases h
    split
    · split
      · exact LineInRange.finishSend ⟨by simpa using proper, State.sentSamples_sound s⟩
      · exact inv
    · exact inv
  | frameDiscard cause => cases h; exact inv.discard cause
  | frameReceived kind sender payload =>
    cases h
    split
    · exact inv.hear _ _ _ (offers_handOn _ _ _) (keeps_handOn _ _ _) (by simp)
    · exact inv.discard _
  | clashQuietExpiry =>
    cases h
    split
    · exact inv
    · have ⟨proper, sound⟩ := inv.arriveAt ‹Nat›
      exact ⟨proper.timers _ _ _, sound⟩
  | beaconReceived sender b =>
    cases h
    exact inv.hear _ _ _ (fun t => .of_keeps (keeps_takeBeacon sender b t) (by simp)) (keeps_takeBeacon sender b) (by simp)
  | capSetting sender c duration =>
    cases h
    exact inv.hear _ _ _ (fun t => .of_keeps (keeps_takeCap sender c _ t) (by simp)) (keeps_takeCap sender c _) (by simp)
  | capCancel sender c =>
    cases h
    exact inv.hear _ _ _ (fun t => .of_keeps (keeps_takeCap sender c _ t) (by simp)) (keeps_takeCap sender c _) (by simp)
  | queryBadItem => cases h; exact inv.hearQuery _ (offers_answer _) (keeps_answer _) (by simp)
  | faults => cases h; exact inv.hearQuery _ (offers_answerFaults _) (keeps_answerFaults _) (by simp)
  | tile => cases h; exact inv.hearQuery _ (offers_answerTile _) (keeps_answerTile _) (by simp)
  | tileDetail => cases h; exact inv.hearQuery _ (offers_answerTileDetail _) (keeps_answerTileDetail _) (by simp)
  | view => cases h; exact inv.hearQuery _ (offers_answerView _) (keeps_answerView _) (by simp)
  | levels => cases h; exact inv.hearQuery _ (offers_answerLevels _) (keeps_answerLevels _) (by simp)
  | chain => cases h; exact inv.hearQuery _ (offers_answerChain _) (keeps_answerChain _) (by simp)
  | line => cases h; exact inv.hearQuery _ (offers_answerLine _) (keeps_answerLine _) (by simp)
  | beaconBuild =>
    cases h
    split
    · exact inv
    · split
      · exact inv
      · next sends => exact (inv.arriveAt _).buildBeacon (by simpa using sends) _
  | faultRaise kind source detail =>
    cases h
    split
    · exact inv
    · exact inv.takeRequest _ _ _
  | faultWithdraw kind source =>
    cases h
    split
    · exact inv
    · exact inv.takeRequest _ _ _
  | lineLeavesIdle =>
    cases h
    split
    · exact ⟨proper, sound.leaveIdle _ _⟩
    · exact inv
  | _ => exact inv.later (exec_keepsLater h) (by simp [changes])

/-- Settles O10: the rows that touch the line leave it in range, the others leave it to the passing of time, and a part held in reset
does neither. -/
theorem stepKeepsLineSound : Obligations.StepKeepsLineSound := by
  unfold Obligations.StepKeepsLineSound
  refine keptByStep_of_exec (fun _ _ inv => inv) (fun s inv => ?_) fun c s t inv h => ?_
  · obtain ⟨range, held⟩ := lineSound_iff.mp inv
    refine lineSound_iff.mpr ⟨range.passHalves 2, fun phase => ?_⟩
    have was : s.startUp.phase = .resetHeld := by simpa using phase
    rw [State.passTime_held 1 s was]
    exact held was
  · obtain ⟨range, held⟩ := lineSound_iff.mp inv
    exact lineSound_iff.mpr ⟨lineInRange_exec range held h, heldLineIsReset_exec held h⟩

end Sys2Proof.Machine
end

section
/-! While the part runs only a reset touches what start-up fixed (R54, R58, R62, R114, R201, R210). -/

namespace Sys2Proof.Machine

open Sys2Proof

/-! ### What start-up fixed -/

/-- `t` holds what start-up fixed in `s`: the start-up unit's own values, the view windows and the own slot, the listen-only flag and the
port supplies. -/
def FixedKept (s t : State) : Prop :=
  t.startUp = s.startUp ∧ t.neighbours.windows = s.neighbours.windows ∧ t.neighbours.ownSlot = s.neighbours.ownSlot ∧
    t.line.listenOnly = s.line.listenOnly ∧ ∀ p, (t.ports.get p).supplyOn = (s.ports.get p).supplyOn

theorem FixedKept.refl {s : State} : FixedKept s s := ⟨rfl, rfl, rfl, rfl, fun _ => rfl⟩

theorem FixedKept.trans {s t u : State} (h : FixedKept s t) (k : FixedKept t u) : FixedKept s u := by
  obtain ⟨h1, h2, h3, h4, h5⟩ := h
  obtain ⟨k1, k2, k3, k4, k5⟩ := k
  exact ⟨k1.trans h1, k2.trans h2, k3.trans h3, k4.trans h4, fun p => (k5 p).trans (h5 p)⟩

theorem FixedKept.ite {b : Prop} [Decidable b] {s t u : State} (h : b → FixedKept s t) (k : ¬b → FixedKept s u) :
    FixedKept s (if b then t else u) := by
  split
  · next yes => exact h yes
  · next no => exact k no

/-- A row that names none of the four parts in which those values stand. -/
theorem FixedKept.of_keeps {l : List Part} {s t : State} (h : Keeps l s t)
    (hl : Part.startUp ∉ l ∧ Part.neighbours ∉ l ∧ Part.line ∉ l ∧ Part.ports ∉ l) : FixedKept s t := by
  obtain ⟨h1, h2, h3, h4⟩ := hl
  have neighbours : t.neighbours = s.neighbours := h .neighbours h2
  have line : t.line = s.line := h .line h3
  have ports : t.ports = s.ports := h .ports h4
  exact ⟨h .startUp h1, by rw [neighbours], by rw [neighbours], by rw [line], fun p => by rw [ports]⟩

theorem fixedKept_passHalves (n : Nat) (s : State) : FixedKept s (s.passHalves n) := .of_keeps (keeps_passHalves n s) (by simp)

theorem fixedKept_arriveAt (t : Nat) (s : State) : FixedKept s (s.arriveAt t) := fixedKept_passHalves _ s

theorem FixedKept.later {l : List Part} {s t : State} (h : KeepsLater l s t)
    (hl : Part.startUp ∉ l ∧ Part.neighbours ∉ l ∧ Part.line ∉ l ∧ Part.ports ∉ l) : FixedKept s t := by
  obtain ⟨n, h⟩ := h
  exact (fixedKept_passHalves n s).trans (.of_keeps h hl)

/-! ### The operations -/

theorem fixedKept_setLine {l : LineControl} {s : State} (h : l.listenOnly = s.line.listenOnly) : FixedKept s (s.setLine l) :=
  ⟨rfl, rfl, rfl, h, fun _ => rfl⟩

theorem fixedKept_setWire (w : LineSamples) (s : State) : FixedKept s (s.setWire w) := .of_keeps (keeps_setWire w s) (by simp)

theorem fixedKept_request (kind : FaultKind) (source : Source) (action : FaultAction) (s : State) :
    FixedKept s (s.request kind source action) := .of_keeps (keeps_request kind source action s) (by simp)

theorem fixedKept_setPort {p : Fin 4} {x : Port} {s : State} (h : x.supplyOn = (s.ports.get p).supplyOn) :
    FixedKept s (s.setPort p x) := by
  refine ⟨rfl, rfl, rfl, rfl, fun q => ?_⟩
  rw [State.setPort_ports, Table.get_set]
  split
  · next here => rw [h, here]
  · rfl

/-- An operation that at most offers a frame. -/
theorem Offers.fixedKept {l : List Part} {s t : State} (h : Offers s t) (k : Keeps l s t)
    (hl : Part.startUp ∉ l ∧ Part.neighbours ∉ l ∧ Part.ports ∉ l) : FixedKept s t := by
  obtain ⟨h1, h2, h3⟩ := hl
  have neighbours : t.neighbours = s.neighbours := k .neighbours h2
  have ports : t.ports = s.ports := k .ports h3
  refine ⟨k .startUp h1, by rw [neighbours], by rw [neighbours], ?_, fun p => by rw [ports]⟩
  rcases h with e | ⟨f, -, e⟩ <;> rw [e]
  exact LineControl.offer_listenOnly f s.line

theorem fixedKept_takeBeacon (sender : Addr) (b : BeaconWire) (s : State) : FixedKept s (s.takeBeacon sender b) := by
  unfold State.takeBeacon
  refine .ite (fun _ => .refl) fun _ => ?_
  split
  · exact ⟨rfl, rfl, rfl, rfl, fun _ => rfl⟩
  · exact .refl

theorem fixedKept_takeCap (sender : Addr) (c : CapWire) (duration : Nat) (s : State) : FixedKept s (s.takeCap sender c duration) :=
  .of_keeps (keeps_takeCap sender c duration s) (by simp)

theorem fixedKept_answer (q : Query) (s : State) : FixedKept s (s.answer q) :=
  (offers_answer q s).fixedKept (keeps_answer q s) (by simp)

theorem fixedKept_handOn (kind : BitVec 4) (sender : Addr) (payload : List Octet) (s : State) :
    FixedKept s (s.handOn kind sender payload) := by
  unfold State.handOn
  split
  · split
    · exact fixedKept_takeBeacon _ _ _
    · exact .refl
  · split
    · exact fixedKept_takeCap _ _ _ _
    · exact .refl
  · split
    · exact .ite (fun _ => fixedKept_answer _ _) fun _ => .refl
    · exact .refl
  · exact .refl

theorem fixedKept_arriveWith (w : LineSamples) (s : State) : FixedKept s (s.arriveWith w) :=
  (fixedKept_arriveAt _ _).trans (fixedKept_setWire _ _)

theorem fixedKept_clash (kind : BitVec 4) (s : State) : FixedKept s (s.clash kind) :=
  FixedKept.trans (t := s.setLine _) (fixedKept_setLine rfl) (fixedKept_request _ _ _ _)

/-- A good frame heard is counted, and held back or handed on. -/
theorem fixedKept_hear (octets : List Octet) (kind : BitVec 4) (sender : Addr) {take : State → State} (s : State)
    (h : ∀ t, FixedKept t (take t)) : FixedKept s (s.hear octets kind sender take) := by
  have counted : ∀ w, FixedKept s (s.arriveWith w).countGood := fun w =>
    (fixedKept_arriveWith w s).trans (fixedKept_setLine rfl)
  rcases State.hear_cases octets kind sender take s with ⟨-, e⟩ | ⟨w, -, ⟨-, -, e⟩ | ⟨-, e⟩⟩ <;> rw [e]
  · exact .refl
  · exact (counted w).trans (fixedKept_clash _ _)
  · exact (counted w).trans (h _)

theorem fixedKept_hearQuery {l : List Part} (q : Query) {respond : State → State} (s : State) (offers : ∀ t, Offers t (respond t))
    (keeps : ∀ t, Keeps l t (respond t)) (hl : Part.startUp ∉ l ∧ Part.neighbours ∉ l ∧ Part.ports ∉ l) :
    FixedKept s (s.hearQuery q respond) :=
  fixedKept_hear _ _ _ _ fun t => .ite (fun _ => (offers t).fixedKept (keeps t) hl) fun _ => .refl

theorem fixedKept_discard (cause : DiscardCause) (s : State) : FixedKept s (s.discard cause) := by
  rcases State.discard_cases cause s with ⟨-, e⟩ | ⟨w, -, -, e⟩ <;> rw [e]
  · exact .refl
  · exact (fixedKept_arriveWith w s).trans (fixedKept_setLine (by rw [State.arriveWith_line]; rfl))

@[simp] theorem LineControl.becomeIdle_listenOnly (incomplete : Bool) (l : LineControl) :
    (l.becomeIdle incomplete).listenOnly = l.listenOnly := by cases incomplete <;> rfl

@[simp] theorem LineControl.launch_listenOnly (l : LineControl) : l.launch.listenOnly = l.listenOnly := by
  unfold LineControl.launch
  split <;> rfl

theorem fixedKept_becomeIdle (w : LineSamples) (s : State) : FixedKept s (s.becomeIdle w) := by
  have idle : FixedKept s ((s.setLine (s.line.becomeIdle w.assembler.holdsFrame)).setWire w.becomeIdle) :=
    (fixedKept_setLine (LineControl.becomeIdle_listenOnly _ _)).trans (fixedKept_setWire _ _)
  exact .ite (fun _ => idle.trans (fixedKept_request _ _ _ _)) fun _ => idle

theorem fixedKept_stick (w : LineSamples) (s : State) : FixedKept s (s.stick w) :=
  FixedKept.trans (t := (s.setLine _).setWire w) ⟨rfl, rfl, rfl, rfl, fun _ => rfl⟩ (fixedKept_request _ _ _ _)

theorem fixedKept_abortFlight (f : Flight) (stop : Option Nat) (s : State) : FixedKept s (s.abortFlight f stop) :=
  .ite (fun _ => FixedKept.trans (t := s.setLine _) (fixedKept_setLine rfl) (fixedKept_request _ _ _ _))
    fun _ => fixedKept_setLine rfl

theorem fixedKept_finishSend (s : State) : FixedKept s s.finishSend :=
  .ite (fun _ => FixedKept.trans (t := s.setLine _) (fixedKept_setLine rfl) (fixedKept_request _ _ _ _))
    fun _ => fixedKept_setLine rfl

theorem fixedKept_buildBeacon (d : Nat) (s : State) : FixedKept s (s.buildBeacon d) :=
  fixedKept_setLine (LineControl.offer_listenOnly _ _)

theorem fixedKept_takeRequest (kind : FaultKind) (source : Source) (action : FaultAction) (s : State) :
    FixedKept s (s.takeRequest kind source action) := by
  have ensured : FixedKept s (s.ensureRequest kind source action) := by
    rcases State.ensureRequest_cases kind source action s with e | e <;> rw [e]
    · exact .refl
    · exact fixedKept_request _ _ _ _
  rcases State.takeRequest_cases kind source action s with e | ⟨-, e⟩ <;> rw [e]
  · exact ensured
  · have begun : FixedKept s (s.ensureRequest kind source action).beginTake :=
      (ensured.trans (fixedKept_arriveAt _ _)).trans (.of_keeps (keeps_setFaults _ _) (by simp))
    exact (begun.trans (.of_keeps (keeps_requests _ _) (by simp))).trans
      ((offers_takeAction _ _ _ _).fixedKept (keeps_takeAction _ _ _ _) (by simp))

/-! ### The commands -/

theorem fixedKept_exec {c : Instr} {s t : State} (run : s.running = true) (begins : ∀ w, c ≠ .resetAssert w)
    (h : exec c s = .next t) : FixedKept s t := by
  have phase : s.startUp.phase = .running := by simpa [State.running] using run
  cases c with
  | resetAssert w => exact absurd rfl (begins w)
  | resetEnd straps => cases h; exact .ite (fun held => by simp [phase] at held) fun _ => .refl
  | readAttempt response =>
    rcases exec_readAttempt h with rfl | ⟨reading, -⟩
    · exact .refl
    · simp [phase] at reading
  | readOutcome octets =>
    rcases exec_readOutcome h with rfl | ⟨-, -, reading, -⟩
    · exact .refl
    · simp [phase] at reading
  | settlingWaitExpiry =>
    rcases exec_settlingWaitExpiry h with rfl | ⟨powering, -⟩
    · exact .refl
    · simp [phase] at powering
  | lineIdle =>
    cases h
    exact .ite (fun _ => (fixedKept_arriveAt _ _).trans (fixedKept_becomeIdle _ _)) fun _ => .refl
  | stuckDominant => cases h; exact .ite (fun _ => (fixedKept_arriveAt _ _).trans (fixedKept_stick _ _)) fun _ => .refl
  | frameStart =>
    cases h
    exact .ite (fun _ => FixedKept.trans (t := s.setLine _) (fixedKept_setLine (LineControl.launch_listenOnly _))
      (fixedKept_setWire _ _)) fun _ => .refl
  | arbitrationLoss =>
    cases h
    refine .ite (fun _ => ?_) fun _ => .refl
    split
    · exact ((fixedKept_arriveAt _ _).trans (fixedKept_setWire _ _)).trans (fixedKept_setLine (by simp [LineControl.lose]))
    · exact .refl
  | bitError =>
    cases h
    refine .ite (fun _ => ?_) fun _ => .refl
    split
    · exact ((fixedKept_arriveAt _ _).trans (fixedKept_setWire _ _)).trans (fixedKept_abortFlight _ _ _)
    · exact .refl
  | frameSent =>
    cases h
    refine .ite (fun _ => ?_) fun _ => .refl
    split
    · exact ((fixedKept_arriveAt _ _).trans (fixedKept_setWire _ _)).trans (fixedKept_finishSend _)
    · exact .refl
  | frameDiscard cause => cases h; exact fixedKept_discard cause s
  | frameReceived kind sender payload =>
    cases h
    exact .ite (fun _ => fixedKept_hear _ _ _ _ (fixedKept_handOn _ _ _)) fun _ => fixedKept_discard _ _
  | clashQuietExpiry =>
    cases h
    split
    · exact .refl
    · exact ((fixedKept_arriveAt _ _).trans (fixedKept_setLine rfl)).trans (fixedKept_request _ _ _ _)
  | beaconReceived sender b => cases h; exact fixedKept_hear _ _ _ _ (fixedKept_takeBeacon sender b)
  | capSetting sender c duration => cases h; exact fixedKept_hear _ _ _ _ (fixedKept_takeCap sender c _)
  | capCancel sender c => cases h; exact fixedKept_hear _ _ _ _ (fixedKept_takeCap sender c _)
  | queryBadItem => cases h; exact fixedKept_hearQuery _ _ (offers_answer _) (keeps_answer _) (by simp)
  | faults => cases h; exact fixedKept_hearQuery _ _ (offers_answerFaults _) (keeps_answerFaults _) (by simp)
  | tile => cases h; exact fixedKept_hearQuery _ _ (offers_answerTile _) (keeps_answerTile _) (by simp)
  | tileDetail => cases h; exact fixedKept_hearQuery _ _ (offers_answerTileDetail _) (keeps_answerTileDetail _) (by simp)
  | view => cases h; exact fixedKept_hearQuery _ _ (offers_answerView _) (keeps_answerView _) (by simp)
  | levels => cases h; exact fixedKept_hearQuery _ _ (offers_answerLevels _) (keeps_answerLevels _) (by simp)
  | chain => cases h; exact fixedKept_hearQuery _ _ (offers_answerChain _) (keeps_answerChain _) (by simp)
  | line => cases h; exact fixedKept_hearQuery _ _ (offers_answerLine _) (keeps_answerLine _) (by simp)
  | beaconBuild =>
    cases h
    split
    · exact .refl
    · exact .ite (fun _ => .refl) fun _ => (fixedKept_arriveAt _ _).trans (fixedKept_buildBeacon _ _)
  | neighbourAging =>
    cases h
    split
    · exact .refl
    · exact (fixedKept_arriveAt _ _).trans ⟨rfl, rfl, rfl, rfl, fun _ => rfl⟩
  | pwmPeriodStart p =>
    cases h
    exact .ite (fun _ => (fixedKept_passHalves _ _).trans (fixedKept_setPort rfl)) fun _ => .refl
  | pwmOnTimeEnd p =>
    cases h
    split
    · exact .refl
    · exact .ite (fun _ => (fixedKept_arriveAt _ _).trans (fixedKept_setPort rfl)) fun _ => .refl
  | faultRaise kind source detail => cases h; exact .ite (fun _ => .refl) fun _ => fixedKept_takeRequest _ _ _ _
  | faultWithdraw kind source => cases h; exact .ite (fun _ => .refl) fun _ => fixedKept_takeRequest _ _ _ _
  | _ => exact .later (exec_keepsLater h) (by simp [changes])

/-- Settles O5: every row but RESET_ASSERT is made of operations that keep those values, and start-up's own rows do nothing while the
part runs. -/
theorem startUpValuesFixed : Obligations.StartUpValuesFixed := by
  unfold Obligations.StartUpValuesFixed
  intro c s t run h
  by_cases begins : ∃ w, c = .resetAssert w
  · exact .inl begins
  · exact .inr (fixedKept_exec run (not_exists.mp begins) h)

end Sys2Proof.Machine
end

section
/-! The frame as it is sent: its octets, its key and its levels (R32, R35, R36, R42, R212). -/

namespace Sys2Proof.Machine

open Sys2Proof

/-! ### Octets and key -/

@[simp] theorem frameOctets_length (key : BitVec 16) (payload : List Octet) :
    (frameOctets key payload).length = payload.length + 4 := by simp [frameOctets, frameBody]

@[simp] theorem Frame.octets_length (f : Frame) : f.octets.length = f.payload.length + 4 := frameOctets_length _ _

@[simp] theorem Frame.levels_length (f : Frame) : f.levels.length = 10 * (f.payload.length + 4) := by
  rw [Frame.levels, charactersLevels_length, Frame.octets_length]

theorem keyOf_toNat (urgency : BitVec 2) (sender : Addr) (kind : BitVec 4) :
    (keyOf urgency sender kind).toNat = urgency.toNat * 16384 + sender.toNat * 16 + kind.toNat := by
  have := sender.isLt
  have := kind.isLt
  rw [keyOf, BitVec.toNat_append, BitVec.toNat_append, ← Nat.shiftLeft_add_eq_or_of_lt (by omega),
    ← Nat.shiftLeft_add_eq_or_of_lt (by omega), Nat.shiftLeft_eq, Nat.shiftLeft_eq]
  omega

theorem Urgency.code_lt (u : Urgency) : u.code < 4 := by cases u <;> decide

theorem FrameKind.code_lt (k : FrameKind) : k.code < 16 := by cases k <;> decide

theorem Frame.key_toNat (f : Frame) : f.key.toNat = f.urgency.code * 16384 + f.sender.toNat * 16 + f.kind.code := by
  rw [Frame.key, keyOf_toNat, BitVec.toNat_ofNat, BitVec.toNat_ofNat, Nat.mod_eq_of_lt f.urgency.code_lt,
    Nat.mod_eq_of_lt f.kind.code_lt]

/-- The octets of a number of sixteen bits, most significant first (R212). -/
theorem octets_of_word (w : BitVec 16) :
    w.extractLsb' 8 8 = BitVec.ofNat 8 (w.toNat / 256) ∧ w.extractLsb' 0 8 = BitVec.ofNat 8 w.toNat :=
  ⟨BitVec.eq_of_toNat_eq (by simp [BitVec.extractLsb'_toNat, Nat.shiftRight_eq_div_pow]),
    BitVec.eq_of_toNat_eq (by simp [BitVec.extractLsb'_toNat])⟩

/-! ### Levels -/

/-- A character's ten levels stand at ten times its place (R32, R35). -/
theorem charactersLevels_getElem? {octets : List Octet} {k : Nat} {o : Octet} (h : octets[k]? = some o) {j : Nat} (hj : j < 10) :
    (charactersLevels octets)[10 * k + j]? = (characterLevels o .recessive)[j]? := by
  have ten : ∀ o, (characterLevels o .recessive).length = 10 := fun o => by simp [characterLevels]
  induction octets generalizing k with
  | nil => cases h
  | cons p rest ih =>
    rw [show charactersLevels (p :: rest) = characterLevels p .recessive ++ charactersLevels rest from rfl]
    cases k with
    | zero =>
      cases h
      rw [List.getElem?_append_left (by rw [ten]; omega), Nat.mul_zero, Nat.zero_add]
    | succ k =>
      rw [List.getElem?_append_right (by rw [ten]; omega), ten, show 10 * (k + 1) + j - 10 = 10 * k + j by omega]
      exact ih h

/-- A character: its start bit, its data bits, most significant first, and its stop bit (R32). -/
theorem characterLevels_getElem? (o : Octet) (stop : Level) :
    (characterLevels o stop)[0]? = some .dominant ∧ (characterLevels o stop)[9]? = some stop ∧
      ∀ i, i < 8 → (characterLevels o stop)[1 + i]? = some (levelOf (o.getMsbD i)) := by
  refine ⟨rfl, rfl, fun i hi => ?_⟩
  rw [characterLevels, List.getElem?_append_left (by simp; omega), Nat.add_comm, List.getElem?_cons_succ]
  simp [hi]

/-- Settles O24: the parts of a frame's octets, a character's levels at their places, and the level driven in each of the three cases. -/
theorem frame_octets : Obligations.FrameOctets := by
  unfold Obligations.FrameOctets
  refine ⟨fun f short => ⟨f.octets_length, (frameOctets_complete f.key short).2, f.key_toNat, ?_, ?_, f.levels_length,
    fun k o at_k => ?_⟩, fun s => ⟨fun silent free => ?_, fun stop silent until_ => ?_, fun f sends inFlight => ?_⟩⟩
  · obtain ⟨high, low⟩ := octets_of_word f.key
    rw [← high, ← low]
    rfl
  · simp [Frame.octets, frameOctets, frameBody]
  · obtain ⟨start, last, data⟩ := characterLevels_getElem? o .recessive
    refine ⟨(charactersLevels_getElem? at_k (by decide)).trans start, (charactersLevels_getElem? at_k (by decide)).trans last,
      fun i hi => ?_⟩
    rw [Nat.add_assoc]
    exact (charactersLevels_getElem? at_k (by omega)).trans (data i hi)
  · simp [State.drives, silent, free]
  · simp [State.drives, silent, until_]
  · simp [State.drives, sends, LineControl.sentLevels, inFlight, State.bitTime]

end Sys2Proof.Machine
end

section
/-! A beacon is heard as it was published, and the payloads of the kinds read back as their fields (R55, R66, R68, R180, R213). -/

namespace Sys2Proof.Machine

open Sys2Proof

/-! ### Payloads read back -/

/-- A field of two octets reads back as the word it carries. -/
theorem octet_append_octet (w : BitVec 16) : octet (w.toNat / 256) ++ octet w.toNat = w := by
  apply BitVec.eq_of_toNat_eq
  rw [BitVec.toNat_append, ← Nat.shiftLeft_add_eq_or_of_lt (octet w.toNat).isLt, Nat.shiftLeft_eq]
  simp only [octet, BitVec.toNat_ofNat]
  omega

/-- The octets of a BEACON read back as its fields (R213). -/
theorem beaconOf_beaconOctets (b : BeaconWire) : beaconOf (beaconOctets b) = some b := by
  simp [beaconOf, beaconOctets, twoOctets, wordAt, octetAt, octet_append_octet]

/-- The octets of a CAP read back as its fields (R213). -/
theorem capOf_capOctets (c : CapWire) (duration : BitVec 16) : capOf (capOctets c duration) = some (c, duration) := by
  simp [capOf, capOctets, twoOctets, wordAt, octetAt, octet_append_octet]

/-- The octets of a QUERY read back as its fields (R213). -/
theorem queryOf_queryOctets (q : Query) : queryOf q.asker (queryOctets q) = some q := by
  simp [queryOf, queryOctets, twoOctets, wordAt, octetAt, octet_append_octet]

/-! ### What a beacon publishes is in range -/

/-- A_own is a code, as each channel's is (R26). -/
theorem SensorsSound.ownAmbient_le {s : State} (h : SensorsSound s) {a : Nat} (e : s.ownAmbient = some a) : a ≤ 671 := by
  obtain ⟨-, sound⟩ := h
  have code : ∀ i x, (s.sensors.get i).code = some x → x ≤ 671 := by
    intro i x hx
    have ⟨_, range, _⟩ := sound i
    unfold SensorChannel.code at hx
    split at hx
    · exact range x hx
    · cases hx
  have first := code 0
  have second := code 1
  unfold State.ownAmbient at e
  cases h0 : (s.sensors.get 0).code with
  | none => rw [h0] at e; exact second a e
  | some x =>
    have := first x h0
    rw [h0] at e
    cases h1 : (s.sensors.get 1).code with
    | none => rw [h1] at e; cases e; exact this
    | some y =>
      have := second y h1
      rw [h1] at e
      cases e
      omega

theorem FaultTable.Sound.activeCount_le {t : FaultTable} (h : t.Sound) : t.activeCount ≤ 24 := by
  obtain ⟨most, -⟩ := h
  exact (List.length_filter_le _ _).trans most

/-- The highest severity is that of some ACTIVE record, and absent only without one (R180). -/
theorem FaultTable.highest_eq_none {t : FaultTable} : t.highest = none ↔ t.activeCount = 0 := by
  have code : ∀ r : FaultRecord, 1 ≤ (faultSeverity r.kind).code ∧ (faultSeverity r.kind).code ≤ 3 := fun r => by
    cases faultSeverity r.kind <;> decide
  have range : ∀ (l : List FaultRecord) m, 1 ≤ m → m ≤ 3 →
      1 ≤ l.foldl (fun m r => max m (faultSeverity r.kind).code) m ∧ l.foldl (fun m r => max m (faultSeverity r.kind).code) m ≤ 3 := by
    intro l
    induction l with
    | nil => exact fun m low high => ⟨low, high⟩
    | cons r rest ih =>
      intro m low high
      have := code r
      exact ih (max m (faultSeverity r.kind).code) (by omega) (by omega)
  unfold FaultTable.highest FaultTable.activeCount
  cases t.activeRecords with
  | nil => exact ⟨fun _ => rfl, fun _ => rfl⟩
  | cons r rest =>
    obtain ⟨low, high⟩ := code r
    obtain ⟨least, most⟩ := range rest (faultSeverity r.kind).code low high
    simp only [List.foldl_cons, Nat.zero_max, List.length_cons, Nat.add_one_ne_zero, iff_false]
    generalize rest.foldl _ _ = m at least most
    interval_cases m <;> simp [Severity.ofCode]

/-! ### What is heard -/

theorem Mode.ofCode_code (m : Mode) : Mode.ofCode (octet m.code).toNat = some m := by cases m <;> rfl

/-- The summary octet carries the severity in its two lowest bits and the flag in its highest (R213). -/
theorem summaryOctet_fields (severity : Option Severity) (overflow : Bool) :
    ((summaryOctet severity overflow).extractLsb' 0 2).toNat = severityCode severity ∧
      (summaryOctet severity overflow).getLsbD 7 = overflow := by
  rcases severity with _ | v
  · cases overflow <;> decide
  · cases v <;> cases overflow <;> decide

theorem Severity.ofCode_severityCode (severity : Option Severity) : Severity.ofCode (severityCode severity) = severity := by
  rcases severity with _ | v
  · rfl
  · cases v <;> rfl

/-- A severity that is absent exactly without ACTIVE records is heard as it is (R68). -/
theorem publishedSeverity_eq {count : Nat} {severity : Option Severity} (h : severity = none ↔ count = 0) :
    publishedSeverity count (severityCode severity) = severity := by
  unfold publishedSeverity
  rw [Severity.ofCode_severityCode]
  cases severity with
  | none => rw [if_pos (h.mp rfl)]
  | some v => rw [if_neg fun zero => by simpa using h.mpr zero]; rfl

/-- An ambient code in range, or its absence, is heard as it is (R68). -/
theorem ambient_heard {ambient : Option Nat} (h : ∀ a, ambient = some a → a ≤ 671) :
    (if (BitVec.ofNat 16 (codeOrAbsent ambient)).toNat ≤ 671 then some (BitVec.ofNat 16 (codeOrAbsent ambient)).toNat else none) =
      ambient := by
  cases ambient with
  | none => rfl
  | some a =>
    have := h a rfl
    have same : (BitVec.ofNat 16 (codeOrAbsent (some a))).toNat = a := by
      show a % 65536 = a
      omega
    rw [same, if_pos this]

/-- A cap record in range, or its absence, is heard as it is (R68). -/
theorem publishedCap_eq {record : Option CapRecord} (h : ∀ r, record = some r → r.level ≤ 511 ∧ 1 ≤ r.remaining ∧ r.remaining ≤ 14400) :
    publishedCap (BitVec.ofNat 16 (codeOrAbsent (record.map CapRecord.level))).toNat
      (BitVec.ofNat 16 ((record.map CapRecord.remaining).getD 0)).toNat = record.map fun r => (r.level, r.remaining) := by
  cases record with
  | none => rfl
  | some r =>
    obtain ⟨level, least, most⟩ := h r rfl
    have l : (BitVec.ofNat 16 (codeOrAbsent (some r.level))).toNat = r.level := by
      show r.level % 65536 = r.level
      omega
    have m : (BitVec.ofNat 16 r.remaining).toNat = r.remaining := by
      show r.remaining % 65536 = r.remaining
      omega
    simp only [Option.map_some, Option.getD_some, l, m]
    rw [publishedCap, if_neg (by omega), Nat.min_eq_left level, Nat.min_eq_left most]

/-- Settles O25: the payload reads back as its fields, and none of them is corrected. -/
theorem beaconHeardAsPublished : Obligations.BeaconHeardAsPublished := by
  unfold Obligations.BeaconHeardAsPublished
  intro s level sensors cap faults seq
  refine ⟨rfl, beaconOf_beaconOctets _, ?_⟩
  have yOut : min (BitVec.ofNat 16 s.settling.yOut).toNat 511 = s.settling.yOut := by
    rw [BitVec.toNat_ofNat]
    omega
  have few := faults.activeCount_le
  have count : min (octet s.faults.activeCount).toNat 24 = s.faults.activeCount := by
    rw [octet, BitVec.toNat_ofNat]
    omega
  have number : (octet s.line.seq).toNat = s.line.seq := by
    rw [octet, BitVec.toNat_ofNat]
    omega
  obtain ⟨severity, overflow⟩ := summaryOctet_fields s.faults.highest s.faults.overflow
  have highest : publishedSeverity (min s.beaconFields.activeCount.toNat 24) (s.beaconFields.summary.extractLsb' 0 2).toNat =
      s.faults.highest := by
    rw [show min s.beaconFields.activeCount.toNat 24 = s.faults.activeCount from count, show
      (s.beaconFields.summary.extractLsb' 0 2).toNat = severityCode s.faults.highest from severity,
      publishedSeverity_eq FaultTable.highest_eq_none]
  rw [neighbourOf, show Mode.ofCode s.beaconFields.mode.toNat = some s.settling.mode from Mode.ofCode_code _, Option.map_some,
    Option.some.injEq, Neighbour.mk.injEq]
  exact ⟨rfl, rfl, yOut, ambient_heard fun _ => sensors.ownAmbient_le, publishedCap_eq cap, count, highest, overflow, number,
    rfl, rfl, rfl⟩

end Sys2Proof.Machine
end

section
/-! The line controller's own events: the start of a frame, losses, aborts, the end of a frame, the samples of the line, LINE_IDLE,
LINE_LEAVES_IDLE and STUCK_DOMINANT (R32 to R42). -/

namespace Sys2Proof.Machine

open Sys2Proof

/-! ### The start of a frame -/

/-- The frame in flight at a start, with what then waits (R34). -/
theorem LineControl.launch_eq {l : LineControl} {f : Flight} {rest : List Frame}
    (h : (l.flight = some f ∧ l.queue = rest) ∨ (l.flight = none ∧ f.aborts = 0 ∧ l.queue = f.frame :: rest)) :
    l.launch = { l with flight := some f, queue := rest } := by
  rcases h with ⟨inFlight, rfl⟩ | ⟨none, fresh, waiting⟩
  · simp [LineControl.launch, inFlight]
    rw [← inFlight]
  · simp [LineControl.launch, none, waiting, ← fresh]

theorem exec_frameStart {s : State} (run : s.running = true) (idle : s.lineIdle = true) (ready : s.line.ready = true) :
    exec .frameStart s = .next ((s.setLine { s.line.launch with
      sending := true, startedAt := s.timeBase, drivesUntil := none }).setWire (LineSamples.atStart s.timeBase)) := by
  simp [exec, execFrameStart, run, idle, ready]

/-- A frame begins with its dominant start bit (R32). -/
theorem Frame.levels_start (f : Frame) : f.levels.getD 0 .recessive = .dominant := rfl

/-- Settles O35: FRAME_START at a ready station on an idle line, and at any other. -/
theorem frameStarts : Obligations.FrameStarts := by
  unfold Obligations.FrameStarts
  refine ⟨fun s run idle silent sends free f rest frame => ?_, fun s not => ?_⟩
  · have launch := LineControl.launch_eq frame
    have ready : s.line.ready = true := by
      rcases frame with ⟨inFlight, -⟩ | ⟨-, -, waiting⟩
      · simp [LineControl.ready, sends, free, inFlight]
      · simp [LineControl.ready, sends, free, waiting]
    refine ⟨_, exec_frameStart run (by simp [State.lineIdle, idle, silent]) ready,
      ((keeps_setLine _ _).mono (by simp)).trans ((keeps_setWire _ _).mono (by simp)), ?_, rfl, by simp [launch]⟩
    simp [State.drives, LineControl.sentLevels, launch, Frame.levels_start, -List.getD_eq_getElem?_getD]
  · have still : (s.running && s.lineIdle && s.line.ready) = false := by
      rcases not with listens | suspended | busy | sending | ⟨none, empty⟩
      · simp [LineControl.ready, listens]
      · simp [LineControl.ready, suspended]
      · simp [State.lineIdle, busy]
      · simp [State.lineIdle, sending]
      · simp [LineControl.ready, none, empty]
    simp only [exec, execFrameStart, still, Bool.false_eq_true, if_false]

/-! ### Losses and aborts -/

theorem LineControl.sentLevels_of_flight {l : LineControl} {f : Flight} (h : l.flight = some f) : l.sentLevels = f.frame.levels := by
  simp [LineControl.sentLevels, h]

/-- The samples of the own frame, from the middle of its start bit on (R32). -/
theorem State.ownRead_eq (s : State) (ls : List Level) : s.ownRead ls =
    (LineSamples.atStart s.line.startedAt).readFrom s.bitTime (s.line.startedAt + s.bitTime / 2) ls := by
  simp [State.ownRead, State.bitMiddle]

@[simp] theorem State.arriveAt_ownRead (t : Nat) (s : State) (ls : List Level) : (s.arriveAt t).ownRead ls = s.ownRead ls := by
  simp [State.ownRead_eq]

theorem exec_arbitrationLoss {s : State} {k : Nat} (run : s.running = true) (sends : s.line.sending = true)
    (first : s.nextBit LineControl.losable = some k) :
    exec .arbitrationLoss s = .next (((s.arriveAt (s.bitMiddle k)).misread k .dominant).setLine s.line.lose) := by
  simp [exec, execArbitrationLoss, run, sends, first]

theorem exec_arbitrationLoss_none {s : State} (none : s.nextBit LineControl.losable = none) : exec .arbitrationLoss s = .next s := by
  simp [exec, execArbitrationLoss, none]

theorem exec_bitError {s : State} {f : Flight} {k : Nat} (run : s.running = true) (sends : s.line.sending = true)
    (inFlight : s.line.flight = some f) (first : s.nextBit LineControl.errable = some k) :
    exec .bitError s = .next
      (((s.arriveAt (s.bitMiddle k)).misread k (s.line.otherLevel k)).abortFlight f (s.endOfDominant k)) := by
  simp [exec, execBitError, run, sends, inFlight, first]

theorem exec_bitError_none {s : State} (none : s.nextBit LineControl.errable = none) : exec .bitError s = .next s := by
  simp [exec, execBitError, none]

/-- An abort that the frame survives (R37). -/
theorem State.abortFlight_survives {f : Flight} (h : f.aborts + 1 < 3) (stop : Option Nat) (s : State) :
    s.abortFlight f stop = s.setLine (s.line.abort f stop) :=
  if_neg (Nat.not_le.mpr h)

/-- The abort at which the frame is dropped (R37). -/
theorem State.abortFlight_drops {f : Flight} (h : 3 ≤ f.aborts + 1) (stop : Option Nat) (s : State) :
    s.abortFlight f stop = (s.setLine (s.line.abort f stop).dropFlight).request .lineError 0
      (.raise (some (BitVec.ofNat 16 f.frame.kind.code))) :=
  if_pos h

@[simp] theorem State.abortFlight_wire (f : Flight) (stop : Option Nat) (s : State) : (s.abortFlight f stop).wire = s.wire :=
  keeps_abortFlight f stop s .wire (by simp)

/-- The one level that a bit of the frame in flight is not sent at. -/
theorem LineControl.otherLevel_eq {l : LineControl} {k : Nat} {level other : Level} (h : l.sentLevels[k]? = some level)
    (ne : other ≠ level) : l.otherLevel k = other := by
  rw [LineControl.otherLevel, List.getD_eq_getElem?_getD, h]
  cases level <;> cases other
  · exact absurd rfl ne
  · rfl
  · rfl
  · exact absurd rfl ne

/-- Settles O36: the first bit that can so mismatch, and what the mismatch leaves of the line controller and its samples. -/
theorem lossesAndAborts : Obligations.LossesAndAborts := by
  unfold Obligations.LossesAndAborts
  rintro s f bit middle loses before run sends inFlight rfl middles losing rfl
  have levels := LineControl.sentLevels_of_flight inFlight
  have middleEq : ∀ k, s.bitMiddle k = middle k := fun k => (middles k).symm
  have losable : ∀ k, s.line.losable k = true ↔ loses k := fun k => by rw [LineControl.losable_iff, losing, levels]
  have errable : ∀ k, s.line.errable k = true ↔ k < f.frame.levels.length ∧ ¬loses k := fun k => by
    rw [LineControl.errable_iff, levels, ← losable, Bool.not_eq_true]
  have within : ∀ k, loses k → k < f.frame.levels.length := fun k lost =>
    (List.getElem?_eq_some_iff.mp ((losing k).mp lost).2).1
  have samples : ∀ t ls, (s.arriveAt t).ownRead ls = LineSamples.readFrom (bitTimeOf s.options.lineRate) (middle 0) ls
      ⟨12, 0, s.line.startedAt, some s.line.startedAt, false, true, false, .empty⟩ := fun t ls => by
    rw [State.arriveAt_ownRead, ← middleEq]; rfl
  refine ⟨?_, fun gone => ?_, ?_, fun gone => ?_⟩
  · rintro k u lost come earlier rfl
    have first : s.nextBit LineControl.losable = some k := by
      simp only [State.nextBit_eq_some, levels, losable, middleEq]
      exact ⟨within k lost, ⟨come, lost⟩, earlier⟩
    refine ⟨_, exec_arbitrationLoss run sends first, ?_, ?_, rfl⟩
    · rw [middleEq]
      exact ((keeps_misread _ _ _).mono (by simp)).trans ((keeps_setLine _ _).mono (by simp))
    · simp [samples, levels]
  · refine exec_arbitrationLoss_none (State.nextBit_eq_none.mpr fun k _ lost => ?_)
    rw [middleEq]
    exact gone k ((losable k).mp lost)
  · rintro k level other stop u sent mismatch kept come earlier rfl rfl
    have first : s.nextBit LineControl.errable = some k := by
      simp only [State.nextBit_eq_some, levels, errable, middleEq]
      have inside := (List.getElem?_eq_some_iff.mp sent).1
      exact ⟨inside, ⟨come, inside, kept⟩, fun j hj hl => earlier j hj hl.2⟩
    have stop : s.endOfDominant k =
        if level = .dominant then some (s.line.startedAt + (k + 1) * bitTimeOf s.options.lineRate) else none := by
      simp [State.endOfDominant, levels, sent, State.bitTime]
    have read := LineControl.otherLevel_eq (levels ▸ sent) mismatch
    refine ⟨_, exec_bitError run sends inFlight first, ?_, ?_, fun survives => ?_, fun drops => ?_⟩
    · rw [middleEq]
      exact ((keeps_misread _ _ _).mono (by simp)).trans ((keeps_abortFlight _ _ _).mono (by simp))
    · simp [samples, levels, read]
    · rw [State.abortFlight_survives survives, stop]
      simp [LineControl.abort, counted, satSucc, Config.counterTop]
    · rw [State.abortFlight_drops drops, stop]
      simp [LineControl.abort, LineControl.dropFlight, counted, satSucc, Config.counterTop, madeNow]
  · refine exec_bitError_none (State.nextBit_eq_none.mpr fun k _ err => ?_)
    obtain ⟨inside, kept⟩ := (errable k).mp err
    rw [middleEq]
    exact gone k inside kept

/-! ### The end of a frame -/

/-- The last of some samples, a bit time apart, falls as many bit times after the first as there are others (R32). -/
theorem LineSamples.readFrom_sampledAt (bitTime now : Nat) (w : LineSamples) {ls : List Level} (h : ls ≠ []) :
    (w.readFrom bitTime now ls).sampledAt = now + (ls.length - 1) * bitTime := by
  obtain ⟨init, last, rfl⟩ := (List.eq_nil_or_concat' ls).resolve_left h
  rw [LineSamples.readFrom_append]
  simp

/-- A bit time is an even number of microseconds (R5). -/
theorem bitTimeOf_half (r : LineRate) : bitTimeOf r - bitTimeOf r / 2 = bitTimeOf r / 2 := by cases r <;> rfl

/-- The last sample of an own frame falls in the middle of its last stop bit (R32, R35). -/
theorem State.ownRead_sampledAt {s : State} {f : Flight} (inFlight : s.line.flight = some f) :
    (s.ownRead s.line.sentLevels).sampledAt = s.line.startedAt + f.frame.sendTime s.bitTime := by
  have half := bitTimeOf_half s.options.lineRate
  have more : 10 * (f.frame.payload.length + 4) * s.bitTime = (10 * (f.frame.payload.length + 4) - 1) * s.bitTime + s.bitTime := by
    rw [← Nat.succ_mul]; congr 1
  have length := f.frame.levels_length
  rw [State.ownRead_eq, LineControl.sentLevels_of_flight inFlight,
    LineSamples.readFrom_sampledAt _ _ _ fun none => by rw [none] at length; simp at length, length, Frame.sendTime, more]
  unfold State.bitTime at *
  omega

theorem exec_frameSent {s : State} {f : Flight} (run : s.running = true) (sends : s.line.sending = true)
    (inFlight : s.line.flight = some f) :
    exec .frameSent s = .next
      ((s.arriveAt (s.line.startedAt + f.frame.sendTime s.bitTime)).setWire s.sentSamples).finishSend := by
  simp [exec, execFrameSent, run, sends, inFlight]

@[simp] theorem State.finishSend_wire (s : State) : s.finishSend.wire = s.wire := keeps_finishSend s .wire (by simp)

@[simp] theorem State.finishSend_line (s : State) : s.finishSend.line = s.line.finishSend := by
  unfold State.finishSend
  dsimp only
  split <;> rfl

theorem State.finishSend_requests (s : State) : s.finishSend.requests =
    s.requests ++ if s.line.cleanRun = 15 then madeNow s [(.lineError, 0, .withdraw)] else [] := by
  unfold State.finishSend Config.cleanRunTop
  by_cases rises : s.line.cleanRun = 15
  · simp [rises, madeNow]
  · rw [if_neg (by omega)]
    simp [rises]

/-- What is made now does not change with the parts that a row leaves its time base beside. -/
theorem madeNow_congr {l : List Part} {s t : State} (h : Keeps l s t) (hl : Part.timeBase ∉ l) (rs) : madeNow t rs = madeNow s rs := by
  rw [madeNow, h .timeBase hl]; rfl

/-- Settles O37: the whole frame's samples, of which the last is in the middle of its last stop bit, and its counts. -/
theorem frameIsSent : Obligations.FrameIsSent := by
  unfold Obligations.FrameIsSent
  rintro s f due run sends inFlight rfl
  have due : s.line.startedAt + f.frame.sendTime s.bitTime =
      s.line.startedAt + 10 * (f.frame.payload.length + 4) * bitTimeOf s.options.lineRate - bitTimeOf s.options.lineRate / 2 := by
    have : bitTimeOf s.options.lineRate ≤ 10 * (f.frame.payload.length + 4) * bitTimeOf s.options.lineRate :=
      Nat.le_mul_of_pos_left _ (by omega)
    unfold Frame.sendTime State.bitTime
    omega
  rw [← due]
  refine ⟨_, exec_frameSent run sends inFlight, ?_, ?_, ?_, ?_⟩
  · exact ((keeps_setWire _ _).mono (by simp)).trans ((keeps_finishSend _).mono (by simp))
  · rintro bit rfl
    have last := State.ownRead_sampledAt inFlight
    rw [LineControl.sentLevels_of_flight inFlight] at last
    simp only [State.finishSend_wire, State.setWire_wire, State.sentSamples, LineControl.sentLevels_of_flight inFlight, ← last]
    rw [State.ownRead_eq]
    rfl
  · simp [LineControl.finishSend, counted, satSucc, Config.counterTop, Config.cleanRunTop]
  · rw [State.finishSend_requests, madeNow_congr (keeps_finishSend _) (by simp)]
    simp

/-! ### Samples -/

/-- The two counts of samples follow from what they were before (R33, R39). -/
theorem LineSamples.readFrom_counts (bitTime now : Nat) (ls : List Level) {v w : LineSamples} (idle : v.idleCount = w.idleCount)
    (stuck : v.stuckCount = w.stuckCount) :
    (v.readFrom bitTime now ls).idleCount = (w.readFrom bitTime now ls).idleCount ∧
      (v.readFrom bitTime now ls).stuckCount = (w.readFrom bitTime now ls).stuckCount := by
  induction ls generalizing now v w with
  | nil => exact ⟨idle, stuck⟩
  | cons l rest ih =>
    rw [LineSamples.readFrom_cons, LineSamples.readFrom_cons]
    cases l
    · exact ih _ rfl (by simp [LineSamples.sample, stuck])
    · exact ih _ (by simp [LineSamples.sample, idle]) rfl

/-- After a start bit that follows a recessive sample the counts are those of a character's start (R33, R39). -/
theorem LineSamples.readFrom_character (bitTime now : Nat) (o : Octet) (stop : Level) {v w : LineSamples} (hv : v.stuckCount = 0)
    (hw : w.stuckCount = 0) :
    (v.readFrom bitTime now (characterLevels o stop)).idleCount = (w.readFrom bitTime now (characterLevels o stop)).idleCount ∧
      (v.readFrom bitTime now (characterLevels o stop)).stuckCount = (w.readFrom bitTime now (characterLevels o stop)).stuckCount :=
  LineSamples.readFrom_counts bitTime (now + bitTime) _ rfl (by simp [LineSamples.sample, hv, hw])

/-- The next sample and the edge from which it is timed, where other stations may drive the line (R32). -/
theorem LineSamples.nextSample_eq {bitTime next : Nat} {edge : Option Nat} {w : LineSamples}
    (turns : ∀ x, Config.heardEdge w.sampledAt = some x → x < bitTime →
      next = w.sampledAt + x + bitTime / 2 ∧ edge = some (w.sampledAt + x))
    (stays : (∀ x, Config.heardEdge w.sampledAt = some x → bitTime ≤ x) → next = w.sampledAt + bitTime ∧ edge = w.edge) :
    w.nextSample bitTime = next ∧ (w.nextEdge bitTime).or w.edge = edge := by
  unfold LineSamples.nextSample LineSamples.nextEdge
  cases heard : Config.heardEdge w.sampledAt with
  | none =>
    obtain ⟨rfl, rfl⟩ := stays (by simp [heard])
    exact ⟨rfl, rfl⟩
  | some x =>
    by_cases soon : x < bitTime
    · obtain ⟨rfl, rfl⟩ := turns x heard soon
      simp [soon]
    · obtain ⟨rfl, rfl⟩ := stays (by simpa [heard] using Nat.not_lt.mp soon)
      simp [soon]

/-- The next sample of a line that other stations may drive (R32, R33; log entry 5). -/
theorem LineSamples.heardSample_eq (bitTime : Nat) (w : LineSamples) {next : Nat} {edge : Option Nat}
    (h : w.nextSample bitTime = next ∧ (w.nextEdge bitTime).or w.edge = edge) :
    w.heardSample bitTime =
      if w.idleCount = 12 then { w with sampledAt := next, edge := edge }
      else if (w.stuckCount = 65 ∧ w.stuck = false) ∨ Config.heardDominant next = true then
        LineSamples.sample bitTime next { w with edge := edge } .dominant
      else LineSamples.sample bitTime next { w with edge := edge } .recessive := by
  obtain ⟨rfl, rfl⟩ := h
  have level : ((w.stuckCount = Config.stuckBits && !w.stuck) || Config.heardDominant (w.nextSample bitTime)) = true ↔
      (w.stuckCount = 65 ∧ w.stuck = false) ∨ Config.heardDominant (w.nextSample bitTime) = true := by
    simp only [Bool.or_eq_true, Bool.and_eq_true, decide_eq_true_eq, Bool.not_eq_true']
    exact Iff.rfl
  unfold LineSamples.heardSample
  by_cases idle : w.idleCount = 12
  · exact (if_pos idle).trans (if_pos idle).symm
  refine (if_neg idle).trans (.trans ?_ (if_neg idle).symm)
  by_cases dominant : (w.stuckCount = 65 ∧ w.stuck = false) ∨ Config.heardDominant (w.nextSample bitTime) = true
  · exact (if_pos (level.mpr dominant)).trans (if_pos dominant).symm
  · exact (if_neg (dominant ∘ level.mp)).trans (if_neg dominant).symm

/-! ### LINE_IDLE, LINE_LEAVES_IDLE and STUCK_DOMINANT -/

/-- A good frame that is complete comes before the idle line (log entry 8). -/
theorem exec_lineIdle_waits {s : State} (good : (s.wire.toTwelfth s.bitTime).assembler.holdsGood = true) :
    exec .lineIdle s = .next s := by
  simp [exec, execLineIdle, good]

/-- LINE_IDLE is taken where no good frame is complete, at the twelfth recessive sample (R33, R39, R41; log entry 8). -/
theorem exec_lineIdle {s : State} (run : s.running = true) (busy : s.wire.idle = false) (silent : s.line.sending = false)
    (none : (s.wire.toTwelfth s.bitTime).assembler.holdsGood = false) :
    exec .lineIdle s = .next ((s.arriveAt (s.wire.toTwelfth s.bitTime).sampledAt).becomeIdle (s.wire.toTwelfth s.bitTime)) := by
  simp [exec, execLineIdle, run, busy, silent, none]

theorem exec_lineLeavesIdle {s : State} (run : s.running = true) (idle : s.lineIdle = true) :
    exec .lineLeavesIdle s = .next (s.setWire { s.wire.sample s.bitTime s.timeBase .dominant with quiet := false }) := by
  simp [exec, execLineLeavesIdle, run, idle]

theorem exec_stuckDominant {s : State} (run : s.running = true) (silent : s.line.sending = false) :
    exec .stuckDominant s = .next
      ((s.arriveAt (s.wire.becomeStuck s.bitTime).sampledAt).stick (s.wire.becomeStuck s.bitTime)) := by
  simp [exec, execStuckDominant, run, silent]

theorem Assembler.holdsGood_iff {a : Assembler} :
    a.holdsGood = true ↔ ∃ octets, a = .ended octets .complete ∧ octetSum octets = 255 := by
  cases a with
  | ended octets reason => cases reason <;> simp [Assembler.holdsGood, goodSum]
  | _ => simp [Assembler.holdsGood]

theorem Assembler.holdsFrame_iff {a : Assembler} : a.holdsFrame = false ↔ a = .empty ∨ a = .ignoring := by
  cases a <;> simp [Assembler.holdsFrame, Assembler.read]

/-- The samples up to the twelfth recessive one (R32, R33). -/
theorem LineSamples.toTwelfth_sampledAt (bitTime : Nat) (w : LineSamples) :
    (w.toTwelfth bitTime).sampledAt = w.sampledAt + (12 - w.idleCount) * bitTime := by
  simp [LineSamples.toTwelfth, Config.idleBits]

@[simp] theorem State.becomeIdle_line (w : LineSamples) (s : State) :
    (s.becomeIdle w).line = s.line.becomeIdle w.assembler.holdsFrame := by
  unfold State.becomeIdle
  dsimp only
  split <;> rfl

@[simp] theorem State.becomeIdle_wire (w : LineSamples) (s : State) : (s.becomeIdle w).wire = w.becomeIdle := by
  unfold State.becomeIdle
  dsimp only
  split <;> rfl

theorem State.becomeIdle_requests (w : LineSamples) (s : State) : (s.becomeIdle w).requests =
    s.requests ++ if s.line.suspended then madeNow s [(.lineStuck, 0, .withdraw)] else [] := by
  unfold State.becomeIdle
  cases s.line.suspended <;> simp [madeNow]

/-- An incomplete frame in assembly is counted bad (R41). -/
theorem LineControl.becomeIdle_eq (a : Assembler) (l : LineControl) : l.becomeIdle a.holdsFrame = { l with
    suspended := false
    counters := { l.counters with
      bad := if a = .empty ∨ a = .ignoring then l.counters.bad else min (l.counters.bad + 1) 65535 } } := by
  cases held : a.holdsFrame with
  | false => simp [LineControl.becomeIdle, Assembler.holdsFrame_iff.mp held]
  | true =>
    have some : ¬(a = .empty ∨ a = .ignoring) := fun none => by
      rw [Assembler.holdsFrame_iff.mpr none] at held; cases held
    simp [LineControl.becomeIdle, LineControl.countBad, some, counted, satSucc, Config.counterTop]

/-- The 65th dominant sample comes as many bit times after the latest sample as samples are wanting to it (R32, R39). -/
theorem LineSamples.becomeStuck_sampledAt (bitTime : Nat) (w : LineSamples) :
    (w.becomeStuck bitTime).sampledAt = w.sampledAt + w.toStuck.length * bitTime :=
  LineSamples.readOn_sampledAt bitTime w w.toStuck

/-- After the 65th dominant sample the counts stand at 65 and 0 (R33, R39). -/
theorem LineSamples.Sound.becomeStuck_counts {w : LineSamples} (h : w.Sound) (bitTime : Nat) :
    (w.becomeStuck bitTime).stuckCount = 65 ∧ (w.becomeStuck bitTime).idleCount = 0 := by
  have stuck : (w.becomeStuck bitTime).stuckCount = 65 := LineSamples.readOn_toStuck_stuckCount bitTime h.2.1
  obtain ⟨-, -, one, -⟩ := h.becomeStuck bitTime
  exact ⟨stuck, one.resolve_right (by simp [stuck])⟩

/-- Settles O34: the equations of the samples, and the three commands in full. -/
theorem lineLevels : Obligations.LineLevels := by
  unfold Obligations.LineLevels
  refine ⟨fun w bit now => ⟨rfl, rfl, rfl, fun ls l => LineSamples.readFrom_append bit now w ls [l], ?_, fun next edge turns stays => ?_⟩,
    ?_, fun s run idle silent => ?_, ?_⟩
  · rintro o stop v recessive rfl
    exact LineSamples.readFrom_character bit now o stop recessive rfl
  · have upcoming := LineSamples.nextSample_eq turns stays
    refine ⟨fun t n => ?_, fun t => rfl, LineSamples.heardSample_eq bit w upcoming⟩
    rw [LineSamples.heardUntil_succ, upcoming.1]
  · rintro s u bit w run busy silent rfl rfl rfl
    refine ⟨fun good => ?_, fun bad => ?_⟩
    · exact exec_lineIdle_waits (Assembler.holdsGood_iff.mpr good)
    · have none : (s.wire.toTwelfth s.bitTime).assembler.holdsGood = false := by
        by_contra good
        obtain ⟨octets, complete, sum⟩ := Assembler.holdsGood_iff.mp (by simpa using good)
        exact bad octets complete sum
      refine ⟨_, exec_lineIdle run busy silent none, ?_, State.becomeIdle_wire _ _, fun few => ?_, ?_, ?_⟩
      · rw [LineSamples.toTwelfth_sampledAt]
        exact keeps_becomeIdle _ _
      · rw [State.becomeIdle_wire]
        exact LineSamples.toTwelfth_idleCount few
      · rw [State.becomeIdle_line, State.arriveAt_line]
        exact LineControl.becomeIdle_eq _ _
      · rw [State.becomeIdle_requests, madeNow_congr (keeps_becomeIdle _ _) (by simp)]
        simp
  · refine ⟨_, exec_lineLeavesIdle run (by simp [State.lineIdle, idle, silent]), keeps_setWire _ _, ?_⟩
    simp [LineSamples.sample, idle, Config.stuckBits, State.bitTime]
  · rintro s u bit levels w run silent rfl rfl rfl rfl
    refine ⟨_, exec_stuckDominant run silent, ?_, rfl, fun sound => sound.becomeStuck_counts _, ?_, ?_⟩
    · rw [LineSamples.becomeStuck_sampledAt]
      exact keeps_stick _ _
    · simp [State.stick]
    · simp [State.stick, madeNow]

end Sys2Proof.Machine
end

section
/-! Frames of other stations: the characters that the assembler takes, the discards, and a good frame compared and handed on (R41 to
R45, R47, R49, R50, R184). -/

namespace Sys2Proof.Machine

open Sys2Proof

/-! ### The characters of a frame -/

/-- Recessive samples between two characters are a gap (R41). -/
theorem Assembler.takeAll_gap (cs : List Octet) (n : Nat) :
    (Assembler.between cs).takeAll (List.replicate n .recessive) = .between cs := by
  induction n with
  | zero => rfl
  | succ n ih => rw [List.replicate_succ]; exact ih

/-- The start bit and the first data samples of a character (R41). -/
theorem Assembler.takeAll_begun (cs : List Octet) (o : Octet) {n : Nat} (h : n ≤ 8) :
    (Assembler.between cs).takeAll ((characterLevels o .recessive).take (n + 1)) =
      .within cs ((List.range n).map fun i => levelOf (o.getMsbD i)) := by
  have begun : (characterLevels o .recessive).take (n + 1) = .dominant :: (List.range n).map fun i => levelOf (o.getMsbD i) := by
    rw [characterLevels, List.take_append_of_le_length (by simp; omega), List.take_succ_cons, ← List.map_take, List.take_range,
      Nat.min_eq_left h]
  rw [begun]
  exact (Assembler.takeAll_bits cs [] _ (by simpa using h)).trans (by simp)

/-- A whole character after a character or a gap (R41). -/
theorem Assembler.takeAll_characterLevels (cs : List Octet) (o : Octet) (stop : Level) :
    (Assembler.between cs).takeAll (characterLevels o stop) =
      if stop = .dominant then .ended (cs ++ [o]) .framingError else Assembler.after (cs ++ [o]) :=
  Assembler.takeAll_character cs o stop

theorem Assembler.after_short {cs : List Octet} (h : cs.length < 3) : Assembler.after cs = .between cs := by
  simp [Assembler.after, List.getElem?_eq_none_iff.mpr (Nat.le_of_lt_succ h)]

theorem Assembler.after_length {cs : List Octet} {n : Octet} (h : cs[2]? = some n) : Assembler.after cs =
    if 24 < n.toNat then .ended cs .badLength else if n.toNat + 4 ≤ cs.length then .ended cs .complete else .between cs := by
  simp only [Assembler.after, h]
  rfl

/-- The characters of a frame whose last stop sample is dominant (R41). -/
theorem Assembler.takeAll_framing {cs : List Octet} {o : Octet} (h : beginsFrame cs = true) :
    (Assembler.between []).takeAll (framingLevels (cs ++ [o])) = .ended (cs ++ [o]) .framingError := by
  rw [framingLevels, charactersLevels_concat, ← List.cons_append, ← List.append_assoc, List.dropLast_concat, List.append_assoc,
    Assembler.takeAll, List.foldl_append]
  have begun := Assembler.takeAll_begins cs h
  rw [Assembler.takeAll] at begun
  rw [begun]
  exact Assembler.takeAll_character cs o .dominant

/-! ### Discards -/

/-- The station, which does not itself send, has read the beginning of a frame's levels, and `more` of them are still to come (R32,
R41; log entry 7). -/
def State.Awaits (s : State) (levels more : List Level) : Prop :=
  s.running = true ∧ s.line.sending = false ∧ s.wire.Sound ∧ ∃ read, s.wire.assembler.read = some read ∧ levels = read ++ more

section
variable {s : State} {levels more : List Level} (h : s.Awaits levels more)
include h

/-- The samples of a frame of which the station has read the beginning (R32, R41). -/
theorem State.Awaits.lineAfter_eq : s.lineAfter levels = some (s.wire.readOn s.bitTime more) := by
  obtain ⟨run, silent, -, read, begun, split⟩ := h
  simp [State.lineAfter, Assembler.rest, run, silent, begun, split]

/-- After the beginning of a frame the line is not idle (R33, R41). -/
theorem State.Awaits.busy : s.wire.idle = false := by
  obtain ⟨-, -, sound, read, begun, -⟩ := h
  exact (sound.busy begun).1

/-- The assembler after them stands as the whole frame's levels make it (R41). -/
theorem State.Awaits.assembler_eq : (s.wire.readOn s.bitTime more).assembler = (Assembler.between []).takeAll levels := by
  have busy := h.busy
  obtain ⟨-, -, ⟨-, -, -, -, -, -, sound⟩, read, begun, split⟩ := h
  have whole := Assembler.takeAll_read sound begun
  rw [Assembler.takeAll] at whole
  rw [split, Assembler.takeAll, List.foldl_append, whole]
  exact (LineSamples.readFrom_busy _ _ _ _ busy).2

/-- A frame discarded when its characters have been read (R41). -/
theorem State.Awaits.lineAfterBad_eq {finish : LineSamples → LineSamples} {ends : Assembler}
    (done : (finish (s.wire.readOn s.bitTime more)).assembler = ends) (quiet : Bool) :
    s.lineAfterBad levels finish ends quiet =
      some { finish (s.wire.readOn s.bitTime more) with quiet := quiet, assembler := .ignoring } := by
  rw [State.lineAfterBad, h.lineAfter_eq, Option.bind_some, if_pos done]

end

/-- The last of some characters. -/
theorem exists_concat {octets : List Octet} (h : octets ≠ []) : ∃ init o, octets = init ++ [o] :=
  (List.eq_nil_or_concat' octets).resolve_left h

section
variable {s : State} {octets : List Octet} {more : List Level}

/-- The line at a framing error (R41). -/
theorem State.Awaits.framingError (h : s.Awaits (framingLevels octets) more) (nonempty : octets ≠ [])
    (begins : beginsFrame octets.dropLast = true) : s.lineAtDiscard (.framingError octets) =
      some { s.wire.readOn s.bitTime more with quiet := false, assembler := .ignoring } := by
  obtain ⟨init, o, rfl⟩ := exists_concat nonempty
  rw [List.dropLast_concat] at begins
  exact h.lineAfterBad_eq (finish := id) (h.assembler_eq.trans (Assembler.takeAll_framing begins)) false

variable (h : s.Awaits (charactersLevels octets) more)
include h

/-- The line at a bad length (R41). -/
theorem State.Awaits.badLength (three : octets.length = 3) {n : Octet} (third : octets[2]? = some n) (long : 24 < n.toNat) :
    s.lineAtDiscard (.badLength octets) = some { s.wire.readOn s.bitTime more with quiet := false, assembler := .ignoring } := by
  obtain ⟨init, o, rfl⟩ := exists_concat (octets := octets) fun none => by simp [none] at three
  have begins : beginsFrame init = true := by
    have : init[2]? = none := List.getElem?_eq_none_iff.mpr (by simp at three; omega)
    simp [beginsFrame, this]
  exact h.lineAfterBad_eq (finish := id)
    (h.assembler_eq.trans ((Assembler.takeAll_after begins).trans (Assembler.after_bad third long))) false

/-- The line that becomes idle before a frame is complete (R41). -/
theorem State.Awaits.idleBeforeComplete (begins : beginsFrame octets = true) :
    s.lineAtDiscard (.idleBeforeComplete octets) =
      some { (s.wire.readOn s.bitTime more).toTwelfth s.bitTime with quiet := false, assembler := .ignoring } := by
  refine h.lineAfterBad_eq (finish := LineSamples.toTwelfth s.bitTime) ?_ false
  have busy : (s.wire.readOn s.bitTime more).idle = false := (LineSamples.readFrom_busy _ _ _ _ h.busy).1
  refine (LineSamples.readFrom_busy _ _ _ _ busy).2.trans ?_
  rw [h.assembler_eq.trans (Assembler.takeAll_begins octets begins)]
  exact Assembler.takeAll_gap octets _

/-- The line at a complete frame's bad sum (R42). -/
theorem State.Awaits.badCheck (complete : completeFrame octets = true) (bad : octetSum octets ≠ 255) :
    s.lineAtDiscard (.badCheck octets) = some { s.wire.readOn s.bitTime more with quiet := true, assembler := .ignoring } := by
  obtain ⟨init, o, rfl⟩ := exists_concat (octets := octets) fun none => by simp [none, completeFrame] at complete
  rw [State.lineAtDiscard, if_neg (by simpa [goodSum] using bad)]
  exact h.lineAfterBad_eq (finish := id) (h.assembler_eq.trans
    ((Assembler.takeAll_after (beginsFrame_of_complete complete)).trans (Assembler.after_complete complete))) true

end

/-- What a discard does where the frame does so end (R41, R42). -/
theorem exec_frameDiscard {s : State} {cause : DiscardCause} {w : LineSamples} {quiet : Bool}
    (h : s.lineAtDiscard cause = some { w with quiet := quiet, assembler := .ignoring }) :
    ∃ t, exec (.frameDiscard cause) s = .next t ∧ Keeps [.line, .wire] (s.arriveAt w.sampledAt) t ∧
      t.wire = { w with quiet := quiet, assembler := .ignoring } ∧
      t.line = { s.line with counters := { s.line.counters with bad := min (s.line.counters.bad + 1) 65535 } } := by
  have discarded : s.discard cause =
      (s.arriveWith { w with quiet := quiet, assembler := .ignoring }).setLine s.line.countBad := by rw [State.discard, h]
  refine ⟨_, congrArg Host.Outcome.next discarded, ?_, rfl, rfl⟩
  exact ((keeps_arriveWith { w with quiet := quiet, assembler := .ignoring } s).mono (by simp)).trans
    ((keeps_setLine _ _).mono (by simp))

/-! ### A good frame heard -/

section
variable {s u : State} {octets : List Octet} (h : s.Hears octets u)
include h

/-- Hearing the rest of a frame changes what time and samples change. -/
theorem State.Hears.keeps : Keeps [.timeBase, .pwmCount, .chains, .wire] s u := by
  obtain ⟨-, -, -, _, _, w, -, -, -, rfl⟩ := h
  exact (keeps_passHalves _ s).trans ((keeps_setWire _ (s.arriveAt w.sampledAt)).mono (by simp))

theorem State.Hears.startUp_eq : u.startUp = s.startUp := h.keeps .startUp (by simp)

theorem State.Hears.line_eq : u.line = s.line := h.keeps .line (by simp)

theorem State.Hears.ownAddress_eq : u.ownAddress = s.ownAddress := by rw [State.ownAddress, h.startUp_eq]; rfl

/-- A good frame under the own address is held back (R44). -/
theorem State.hear_own (good : completeFrame octets = true ∧ octetSum octets = 255) (compares : s.line.listenOnly = false)
    (kind : BitVec 4) (take : State → State) : s.hear octets kind s.ownAddress take = u.countGood.clash kind := by
  rw [State.hear_of_hears h good.1 good.2]
  simp [State.compare, State.clashes, h.line_eq, h.ownAddress_eq, compares]

/-- A good frame that is not held back is counted and handed on (R42, R43). -/
theorem State.hear_other (good : completeFrame octets = true ∧ octetSum octets = 255) {sender : Addr} (other : s.NotHeldBack sender)
    (kind : BitVec 4) (take : State → State) : s.hear octets kind sender take = take u.countGood := by
  rw [State.hear_of_hears h good.1 good.2]
  have clear : u.clashes sender = false := by
    rcases other with listens | other <;> simp [State.clashes, h.line_eq, h.ownAddress_eq, *]
  simp [State.compare, clear]

/-- A good frame heard and counted, and nothing else. -/
theorem State.Hears.countGood_eq : u.countGood = { u with line := s.line.afterGood } := by
  rw [← h.line_eq]; rfl

end

/-- The characters of a frame are those of a complete one, and their sum is good (R41, R42). -/
theorem Frame.octets_complete {f : Frame} (short : f.payload.length ≤ 24) :
    completeFrame f.octets = true ∧ octetSum f.octets = 255 := frameOctets_complete f.key short

theorem exec_frameReceived {payload : List Octet} (short : payload.length ≤ 24) (kind : FrameClass) (sender : Addr) (s : State) :
    exec (.frameReceived kind sender payload) s =
      .next (s.hear (frameOctets (keyOf kind.urgency sender kind.code) payload) kind.code sender
        (State.handOn kind.code sender payload)) :=
  congrArg Host.Outcome.next (if_pos short)

/-! ### The rows of a query -/

/-- A row that stands for a QUERY of these fields: QUERY_BAD_ITEM, or the row of the item that it names (R184; log entry 19). -/
def Query.Row (q : Query) (row : Instr) : Prop :=
  row = .queryBadItem q.asker q.target q.item q.argument q.tag ∨
    (q.item = 1 ∧ row = .faults q.asker q.target q.argument q.tag) ∨ (q.item = 2 ∧ row = .tile q.asker q.target q.argument q.tag) ∨
    (q.item = 3 ∧ row = .tileDetail q.asker q.target q.argument q.tag) ∨ (q.item = 4 ∧ row = .view q.asker q.target q.argument q.tag) ∨
    (q.item = 5 ∧ row = .levels q.asker q.target q.argument q.tag) ∨ (q.item = 6 ∧ row = .chain q.asker q.target q.argument q.tag) ∨
    (q.item = 7 ∧ row = .line q.asker q.target q.argument q.tag)

section
variable {q : Query}

theorem Query.Row.queryBadItem : q.Row (.queryBadItem q.asker q.target q.item q.argument q.tag) := .inl rfl
theorem Query.Row.faults (h : q.item = 1) : q.Row (.faults q.asker q.target q.argument q.tag) := .inr (.inl ⟨h, rfl⟩)
theorem Query.Row.tile (h : q.item = 2) : q.Row (.tile q.asker q.target q.argument q.tag) := .inr (.inr (.inl ⟨h, rfl⟩))
theorem Query.Row.tileDetail (h : q.item = 3) : q.Row (.tileDetail q.asker q.target q.argument q.tag) :=
  .inr (.inr (.inr (.inl ⟨h, rfl⟩)))
theorem Query.Row.view (h : q.item = 4) : q.Row (.view q.asker q.target q.argument q.tag) :=
  .inr (.inr (.inr (.inr (.inl ⟨h, rfl⟩))))
theorem Query.Row.levels (h : q.item = 5) : q.Row (.levels q.asker q.target q.argument q.tag) :=
  .inr (.inr (.inr (.inr (.inr (.inl ⟨h, rfl⟩)))))
theorem Query.Row.chain (h : q.item = 6) : q.Row (.chain q.asker q.target q.argument q.tag) :=
  .inr (.inr (.inr (.inr (.inr (.inr (.inl ⟨h, rfl⟩))))))
theorem Query.Row.line (h : q.item = 7) : q.Row (.line q.asker q.target q.argument q.tag) :=
  .inr (.inr (.inr (.inr (.inr (.inr (.inr ⟨h, rfl⟩))))))

end

/-- A QUERY handed on: it is answered by the station that it names (R43, R54). -/
def State.handQuery (q : Query) (s : State) : State := if s.addressed q.target then s.answer q else s

/-- Every row that stands for a QUERY hands it on to its item's answer (R184; log entry 19). -/
theorem Query.Row.exec_eq {q : Query} {row : Instr} (h : q.Row row) (s : State) :
    exec row s = .next (s.hear q.frameOctets 4 q.asker (State.handQuery q)) := by
  obtain ⟨asker, target, item, argument, tag⟩ := q
  rcases h with rfl | ⟨rfl, rfl⟩ | ⟨rfl, rfl⟩ | ⟨rfl, rfl⟩ | ⟨rfl, rfl⟩ | ⟨rfl, rfl⟩ | ⟨rfl, rfl⟩ | ⟨rfl, rfl⟩ <;> rfl

/-- A QUERY's frame is complete and its sum good. -/
theorem Query.frameOctets_complete (q : Query) : completeFrame q.frameOctets = true ∧ octetSum q.frameOctets = 255 :=
  Frame.octets_complete (show 5 ≤ 24 by decide)

/-! ### The own address heard -/

/-- ADDRESS_CLASH raised, and the clash quiet timer started afresh (R44). -/
theorem State.Hears.clash {s u : State} {octets : List Octet} (h : s.Hears octets u) (kind : BitVec 4) :
    Keeps [.line, .requests] u (u.countGood.clash kind) ∧
      (u.countGood.clash kind).line = { s.line.afterGood with clashEnd := some (u.timeBase + 60000000) } ∧
      (u.countGood.clash kind).requests =
        s.requests ++ madeNow (u.countGood.clash kind) [(.addressClash, 0, .raise (some (kind.setWidth 16)))] := by
  refine ⟨((keeps_countGood u).mono (by simp)).trans (keeps_clash _ _), ?_, ?_⟩
  · rw [← h.line_eq]; rfl
  · rw [← show u.requests = s.requests from h.keeps .requests (by simp)]; rfl

theorem exec_clashQuietExpiry {s : State} {e : Nat} (h : s.line.clashEnd = some e) :
    exec .clashQuietExpiry s = .next (((s.arriveAt e).setLine { s.line with clashEnd := none }).request .addressClash 0 .withdraw) := by
  simp [exec, execClashQuietExpiry, h]

/-- Settles O39: whatever row the frame is, it is one that hears its octets under the own address. -/
theorem ownAddressHeard : Obligations.OwnAddressHeard := by
  unfold Obligations.OwnAddressHeard
  refine ⟨?_, fun s e due => ⟨_, exec_clashQuietExpiry due,
    ((keeps_setLine _ _).mono (by simp)).trans ((keeps_request _ _ _ _).mono (by simp)), rfl, by simp [madeNow]⟩⟩
  rintro kind s u c octets own hears compares rfl row
  suffices held : exec c s = .next (u.countGood.clash kind) from ⟨_, held, hears.clash kind⟩
  have own : ∀ take, (completeFrame octets = true ∧ octetSum octets = 255) →
      s.hear octets kind s.ownAddress take = u.countGood.clash kind := fun take good => State.hear_own hears good compares kind take
  rcases row with ⟨m, payload, short, rfl, rfl⟩ | ⟨rfl, b, rfl, rfl⟩ | ⟨rfl, k, d, rows, rfl⟩ | ⟨rfl, q, asker, rfl, rows⟩
  · rw [exec_frameReceived short]
    exact congrArg _ (own _ (frameOctets_complete _ short))
  · exact congrArg Host.Outcome.next (own _ (Frame.octets_complete (show 12 ≤ 24 by decide)))
  · rcases rows with rfl | ⟨rfl, rfl⟩
    · exact congrArg Host.Outcome.next (own _ (Frame.octets_complete (show 9 ≤ 24 by decide)))
    · exact congrArg Host.Outcome.next (own _ (Frame.octets_complete (show 9 ≤ 24 by decide)))
  · have query : q.Row c := by rw [← asker] at rows; exact rows
    rw [query.exec_eq, Query.frameOctets, asker]
    exact congrArg _ (own _ (Frame.octets_complete (show 5 ≤ 24 by decide)))

end Sys2Proof.Machine
end

section
/-! A good frame handed on is the command of its row (R42, R43, R47, R49, R50, R184). -/

namespace Sys2Proof.Machine

open Sys2Proof

/-! ### What handing on reads -/

section
variable (w : LineSamples) (s : State)

/-- The samples of the line do not bear on what becomes of a frame that is handed on. -/
theorem State.takeBeacon_setWire (sender : Addr) (b : BeaconWire) :
    (s.setWire w).takeBeacon sender b = (s.takeBeacon sender b).setWire w := by
  rw [State.takeBeacon, State.takeBeacon, apply_ite (State.setWire · w)]
  refine ite_congr rfl (fun _ => rfl) fun _ => ?_
  dsimp only [State.setWire_neighbours]
  split <;> rfl

theorem State.takeCap_setWire (sender : Addr) (c : CapWire) (duration : Nat) :
    (s.setWire w).takeCap sender c duration = (s.takeCap sender c duration).setWire w := by
  rw [State.takeCap, State.takeCap, apply_ite (State.setWire · w)]
  exact ite_congr rfl (fun _ => rfl) fun _ => rfl

theorem State.answerFaults_setWire (q : Query) : (s.setWire w).answerFaults q = (s.answerFaults q).setWire w := by
  unfold State.answerFaults
  split <;> rfl

theorem State.answerTile_setWire (q : Query) : (s.setWire w).answerTile q = (s.answerTile q).setWire w := by
  unfold State.answerTile
  split
  · dsimp only [State.setWire_collector]
    split <;> rfl
  · rfl

theorem State.detailOutcome_setWire (words : Option DetailWords) :
    (s.setWire w).detailOutcome words = (s.detailOutcome words).setWire w := by
  simp only [State.detailOutcome, State.setWire_responder]
  split
  · split <;> rfl
  · rfl

theorem State.postDetail_setWire (c : Fin 4) (position : Nat) :
    (s.setWire w).postDetail c position = (s.postDetail c position).setWire w := by
  rw [State.postDetail, State.postDetail, apply_ite (State.setWire · w)]
  exact ite_congr rfl (fun _ => State.detailOutcome_setWire w s none) fun _ => rfl

theorem State.firstAsk_setWire (q : Query) (i : Fin 64) : (s.setWire w).firstAsk q i = (s.firstAsk q i).setWire w := by
  rw [State.firstAsk, State.firstAsk, apply_ite (State.setWire · w)]
  exact ite_congr rfl (fun _ => rfl) fun _ =>
    congrArg (State.reply q .deferred []) (State.postDetail_setWire w (s.setDeferred _) _ _)

theorem State.askAgain_setWire (q : Query) (d : Deferred) : (s.setWire w).askAgain q d = (s.askAgain q d).setWire w := by
  unfold State.askAgain
  split
  · split <;> rfl
  · rfl

theorem State.answerTileDetail_setWire (q : Query) : (s.setWire w).answerTileDetail q = (s.answerTileDetail q).setWire w := by
  simp only [State.answerTileDetail, State.setWire_responder]
  split
  · split
    · exact State.firstAsk_setWire w s q _
    · exact State.askAgain_setWire w s q _
  · rfl

theorem State.answerView_setWire (q : Query) : (s.setWire w).answerView q = (s.answerView q).setWire w := by
  unfold State.answerView
  split <;> rfl

theorem State.answerChain_setWire (q : Query) : (s.setWire w).answerChain q = (s.answerChain q).setWire w := by
  unfold State.answerChain
  split <;> rfl

theorem State.answer_setWire (q : Query) : (s.setWire w).answer q = (s.answer q).setWire w := by
  unfold State.answer
  split
  · exact State.answerFaults_setWire w s q
  · exact State.answerTile_setWire w s q
  · exact State.answerTileDetail_setWire w s q
  · exact State.answerView_setWire w s q
  · rfl
  · exact State.answerChain_setWire w s q
  · rfl
  · rfl

theorem State.handQuery_setWire (q : Query) : (s.setWire w).handQuery q = (s.handQuery q).setWire w := by
  unfold State.handQuery
  split
  · next here => rw [if_pos (show s.addressed q.target = true from here)]; exact State.answer_setWire w s q
  · next there => rw [if_neg (show ¬s.addressed q.target = true from there)]

end

theorem keeps_setWire_back (w : LineSamples) (s : State) : Keeps [.wire] (s.setWire w) s := by
  intro p hp; cases p <;> simp_all [Part.agrees]

theorem keeps_handQuery (q : Query) (s : State) : Keeps [.line, .chains, .responder] s (s.handQuery q) :=
  Keeps.ite (keeps_answer q s) Keeps.refl

/-! ### By kind -/

section
variable {kind : BitVec 4} (sender : Addr) {payload : List Octet} (s : State)

theorem State.handOn_beacon (h : kind.toNat = 1) {b : BeaconWire} (fixed : beaconOf payload = some b) :
    s.handOn kind sender payload = s.takeBeacon sender b := by
  simp [State.handOn, h, fixed]

theorem State.handOn_cap (h : kind.toNat = 3) {c : CapWire} {d : BitVec 16} (fixed : capOf payload = some (c, d)) :
    s.handOn kind sender payload = s.takeCap sender c d.toNat := by
  simp [State.handOn, h, fixed]

theorem State.handOn_query (h : kind.toNat = 4) {q : Query} (fixed : queryOf sender payload = some q) :
    s.handOn kind sender payload = s.handQuery q := by
  simp [State.handOn, h, fixed, State.handQuery]

/-- A frame of another kind, or shorter than its kind's fixed part, goes no further (R43, R47, R50). -/
theorem State.handOn_none (h : (kind.toNat ≠ 1 ∧ kind.toNat ≠ 3 ∧ kind.toNat ≠ 4) ∨ (kind.toNat = 1 ∧ payload.length < 12) ∨
    (kind.toNat = 3 ∧ payload.length < 9) ∨ (kind.toNat = 4 ∧ payload.length < 5)) : s.handOn kind sender payload = s := by
  unfold State.handOn
  rcases h with ⟨h1, h3, h4⟩ | ⟨h, short⟩ | ⟨h, short⟩ | ⟨h, short⟩
  · split
    · next h => exact absurd h h1
    · next h => exact absurd h h3
    · next h => exact absurd h h4
    · rfl
  · simp [h, beaconOf, short]
  · simp [h, capOf, short]
  · simp [h, queryOf, short]

end

theorem queryOf_asker {sender : Addr} {payload : List Octet} {q : Query} (h : queryOf sender payload = some q) : q.asker = sender := by
  unfold queryOf at h
  split at h
  · cases h
  · cases h; rfl

/-- The row of a QUERY: that of its item where its argument is in range, and QUERY_BAD_ITEM otherwise (R184). -/
theorem query_row {q : Query} {sender : Addr} (asker : q.asker = sender) : q.Row
    (if q.item = 1 ∧ q.argument.toNat < 8 then .faults sender q.target q.argument q.tag
      else if q.item = 2 ∧ q.argument.toNat < 64 then .tile sender q.target q.argument q.tag
      else if q.item = 3 ∧ q.argument.toNat < 64 then .tileDetail sender q.target q.argument q.tag
      else if q.item = 4 ∧ q.argument.toNat < 32 then .view sender q.target q.argument q.tag
      else if q.item = 5 then .levels sender q.target q.argument q.tag
      else if q.item = 6 ∧ q.argument.toNat < 4 then .chain sender q.target q.argument q.tag
      else if q.item = 7 then .line sender q.target q.argument q.tag
      else .queryBadItem sender q.target q.item q.argument q.tag) := by
  subst asker
  split
  · next h => exact .faults h.1
  split
  · next h => exact .tile h.1
  split
  · next h => exact .tileDetail h.1
  split
  · next h => exact .view h.1
  split
  · next h => exact .levels h
  split
  · next h => exact .chain h.1
  split
  · next h => exact .line h
  · exact .queryBadItem

/-! ### The row's own command -/

/-- A frame received and the frame of its row's fixed part, heard in states that are then alike but for the samples, come to states that
are alike but for the samples (R43; log entry 7). -/
theorem handOn_as_row {s r u v : State} {octets fixed : List Octet} {sender : Addr} {code kind : BitVec 4} {take hand : State → State}
    {c row : Instr} {l : List Part} (heard : s.Hears octets u) (good : completeFrame octets = true ∧ octetSum octets = 255)
    (other : s.NotHeldBack sender) (received : exec c s = .next (s.hear octets code sender hand))
    (handed : ∀ x, hand x = take x) (again : r.Hears fixed v) (goodFixed : completeFrame fixed = true ∧ octetSum fixed = 255)
    (own : exec row r = .next (r.hear fixed kind sender take)) (alike : v = { u with wire := v.wire })
    (blind : ∀ w x, take (State.setWire x w) = (take x).setWire w) (keeps : ∀ x, Keeps l x (take x)) (hl : Part.wire ∉ l) :
    ∃ t z, exec c s = .next t ∧ exec row r = .next z ∧ Keeps [.wire] z t ∧ t.wire = u.wire := by
  have otherAgain : r.NotHeldBack sender := by
    have line : r.line = s.line := again.line_eq.symm.trans ((congrArg State.line alike).trans heard.line_eq)
    have address : r.ownAddress = s.ownAddress :=
      again.ownAddress_eq.symm.trans ((congrArg State.ownAddress alike).trans heard.ownAddress_eq)
    rw [State.NotHeldBack, line, address]
    exact other
  rw [State.hear_other heard good other, handed] at received
  rw [State.hear_other again goodFixed otherAgain] at own
  refine ⟨_, _, received, own, ?_, keeps _ .wire hl⟩
  have differ : v.countGood = u.countGood.setWire v.wire := by rw [alike]; rfl
  rw [differ, blind]
  exact keeps_setWire_back _ _

/-- Settles O38: the assembler by character, the four discards by their causes, and the good frames by their kinds. -/
theorem framesHandedOn : Obligations.FramesHandedOn := by
  unfold Obligations.FramesHandedOn
  refine ⟨fun cs read reads => ?_, ?_, ?_⟩
  · simp only [reads]
    refine ⟨Assembler.takeAll_gap cs, rfl, fun o => ⟨fun n hn => Assembler.takeAll_begun cs o hn,
      Assembler.takeAll_characterLevels cs o .dominant, fun short => ?_, fun n third => ?_⟩⟩
    · exact (Assembler.takeAll_characterLevels cs o .recessive).trans (Assembler.after_short (by simp; omega))
    · refine (Assembler.takeAll_characterLevels cs o .recessive).trans ((Assembler.after_length third).trans ?_)
      rw [List.length_append]; rfl
  · rintro octets cause s levels read more v w bit run silent sound rfl begun split rfl case_
    have awaits : s.Awaits levels more := ⟨run, silent, sound, read, begun, split⟩
    rcases case_ with ⟨rfl, nonempty, begins, rfl, rfl⟩ | ⟨rfl, three, ⟨n, third, long⟩, rfl, rfl⟩ | ⟨rfl, -, begins, rfl, rfl⟩ |
      ⟨rfl, complete, bad, rfl, rfl⟩
    · exact exec_frameDiscard (awaits.framingError nonempty begins)
    · exact exec_frameDiscard (awaits.badLength three third long)
    · exact exec_frameDiscard (awaits.idleBeforeComplete begins)
    · rw [decide_eq_true rfl]
      exact exec_frameDiscard (awaits.badCheck complete bad)
  · intro kind sender payload s u heard other short
    have good := frameOctets_complete (keyOf kind.urgency sender kind.code) short
    have received := exec_frameReceived short kind sender s
    refine ⟨fun none => ?_, ?_⟩
    · rw [State.hear_other heard good other, State.handOn_none sender _ none] at received
      exact ⟨_, received, keeps_countGood u, by rw [heard.countGood_eq]⟩
    · rintro row fixed row_ r v again alike
      rcases row_ with ⟨code, b, fields, rfl, rfl⟩ | ⟨code, c, d, fields, rfl, rfl⟩ | ⟨code, q, fields, rfl, rfl⟩
      · exact handOn_as_row heard good other received (fun x => State.handOn_beacon sender x code fields) again
          (Frame.octets_complete (show 12 ≤ 24 by decide)) rfl alike (fun w x => State.takeBeacon_setWire w x sender b)
          (keeps_takeBeacon sender b) (by simp)
      · have own : exec (if d = 0 then .capCancel sender c else .capSetting sender c d) r = .next (r.hearCap sender c d) := by
          split
          · next zero => subst zero; rfl
          · rfl
        exact handOn_as_row heard good other received (fun x => State.handOn_cap sender x code fields) again
          (Frame.octets_complete (show 9 ≤ 24 by decide)) own alike (fun w x => State.takeCap_setWire w x sender c _)
          (keeps_takeCap sender c _) (by simp)
      · have asker := queryOf_asker fields
        have own := (query_row asker).exec_eq r
        rw [Query.frameOctets, asker] at own
        exact handOn_as_row heard good other received (fun x => State.handOn_query sender x code fields) again
          (Frame.octets_complete (show 5 ≤ 24 by decide)) own alike (fun w x => State.handQuery_setWire w x q)
          (keeps_handQuery q) (by simp)

end Sys2Proof.Machine
end

section
/-! The items answered at once, with the data of their replies (R184, R185, R187 to R192, R214). -/

namespace Sys2Proof.Machine

open Sys2Proof

/-! ### Data of the replies -/

/-- A page of the fault table, entry by entry (R187). -/
theorem faultsData_eq (t : FaultTable) (page n : Nat) (entry : Nat → Nat → List Octet)
    (count : n = (t.records.filter fun r => r.state = .active).length)
    (entries : ∀ e header, entry e header = match t.records[3 * page + e]? with
      | none => [0, BitVec.ofNat 8 (64 * header), 0, 0, 0, 0]
      | some r => [BitVec.ofNat 8 (faultCode r.kind + if r.state = .cleared then 128 else 0),
          BitVec.ofNat 8 (64 * header + r.source.toNat), BitVec.ofNat 8 r.count, BitVec.ofNat 8 r.clearedAge] ++
          twoOctets ((r.detail.map BitVec.toNat).getD 0)) :
    faultsData t page = entry 0 (n / 8 % 4) ++ entry 1 (n / 2 % 4) ++
      entry 2 (2 * (n % 2) + if t.overflow then 1 else 0) := by
  have laid : ∀ e header, entry e header = faultEntry header t.records[3 * page + e]? := fun e header => by
    rw [entries]
    cases t.records[3 * page + e]? <;> rfl
  rw [laid, laid, laid, count]
  rfl

/-- The readings, the age and the faults of a tile (R188). -/
theorem tileData_eq (tile : TileRecord) : tileData tile =
    (match tile.readings with
      | some r => [BitVec.ofNat 8 (16 * r.openCount + r.shortCount), BitVec.ofNat 8 r.temperature,
          BitVec.ofNat 8 ((if r.driverSupplyOk then 1 else 0) + (if r.tileOk then 2 else 0) + 128 + 16 * tile.warnClear)]
      | none => [0, 0, BitVec.ofNat 8 (16 * tile.warnClear)]) ++
    [BitVec.ofNat 8 tile.sweepsSince,
      BitVec.ofNat 8 ((if tile.reported.tileOpen then 1 else 0) + (if tile.reported.tileShort then 2 else 0) +
        (if tile.reported.tileSupply then 4 else 0) + (if tile.reported.thermalWarn then 8 else 0) +
        (if tile.reported.thermalCrit then 16 else 0))] := by
  rw [tileData, tileFlags]
  cases tile.readings with
  | none => rw [Nat.zero_add]; rfl
  | some r => rfl

/-- A record of another station (R189). -/
theorem recordData_eq (n : Neighbour) : recordData n =
    [2] ++ twoOctets n.sender.toNat ++ [BitVec.ofNat 8 (n.mode.code + if n.freshness = .stale then 128 else 0)] ++
      twoOctets n.yOut ++ twoOctets (n.ambient.getD 0x3FF) ++ twoOctets ((n.cap.map Prod.fst).getD 0x3FF) ++
      twoOctets ((n.cap.map Prod.snd).getD 0) ++
      [BitVec.ofNat 8 n.activeCount, BitVec.ofNat 8 (severityCode n.severity + if n.overflow then 128 else 0),
        BitVec.ofNat 8 n.seq, BitVec.ofNat 8 n.missed] ++ twoOctets n.age := by
  simp [recordData, flagBit, codeOrAbsent, summaryOctet, octet]

/-- A view slot without a record: EMPTY, or OWN (R189). -/
theorem viewData_none {t : NeighbourTable} {i : Fin 32} (h : t.slots.get i = none) :
    viewData t i = [if t.ownSlot = some i then 1 else 0] := by
  simp only [viewData, h]
  split <;> rfl

theorem viewData_some {t : NeighbourTable} {i : Fin 32} {n : Neighbour} (h : t.slots.get i = some n) :
    viewData t i = recordData n := by rw [viewData, h]

/-- The octets of a number, most significant first, each by its place. -/
theorem octetsOf_eq_map (k n : Nat) : octetsOf k n = (List.range k).map fun i => BitVec.ofNat 8 (n / 256 ^ (k - 1 - i)) := by
  induction k generalizing n with
  | zero => rfl
  | succ k ih =>
    rw [octetsOf, ih, List.range_succ, List.map_append, List.map_singleton, Nat.add_sub_cancel, Nat.sub_self, pow_zero, Nat.div_one]
    refine congrArg (· ++ _) (List.map_congr_left fun i hi => ?_)
    have : k - i = 1 + (k - 1 - i) := by have := List.mem_range.mp hi; omega
    rw [this, Nat.div_div_eq_div_mul, pow_add, pow_one]

theorem packCodes_eq (codes : List (Option Nat)) :
    packCodes codes = List.foldl (fun m (k : Option Nat) => 1024 * m + k.getD 0x3FF % 1024) 0 codes := by
  simp only [packCodes, codeOrAbsent, Nat.mul_comm 1024]

/-- The stage's values of the last pass and the cap held (R190). -/
theorem levelsData_eq (s : State) : levelsData s =
    (List.range 10).map (fun i => BitVec.ofNat 8 (List.foldl (fun m (k : Option Nat) => 1024 * m + k.getD 0x3FF % 1024) 0
        [s.settling.stage.aOwn, s.settling.stage.aPool, s.settling.stage.yCeil, s.settling.stage.capLevel,
          s.settling.stage.upstream, s.settling.stage.downstream, s.settling.stage.yTarget, some s.settling.stage.yOut] /
        256 ^ (9 - i))) ++
      [BitVec.ofNat 8 (s.settling.stage.mode.code + 4 *
          (if s.settling.stage.derate = 0 then 0 else if s.settling.stage.derate = 16 then 1 else 2)),
        BitVec.ofNat 8 ((s.neighbours.ownSlot.map Fin.val).getD 0xFF)] ++
      twoOctets ((s.cap.record.map fun r => r.source.toNat).getD 0) ++
      twoOctets ((s.cap.record.map CapRecord.remaining).getD 0) := by
  rw [levelsData, octetsOf_eq_map, packCodes_eq]
  rfl

theorem levelsData_congr {s u : State} (settling : u.settling = s.settling) (neighbours : u.neighbours = s.neighbours)
    (cap : u.cap = s.cap) : levelsData u = levelsData s := by
  rw [levelsData, settling, neighbours, cap]
  rfl

/-- The state of a chain, its port and its counts (R191). -/
theorem chainData_eq (s : State) (c : Fin 4) : chainData s c =
    [BitVec.ofNat 8 (s.chains.get c).state.code,
        (if s.used c then BitVec.ofNat 8 (s.options.crossbar.get c).val else 0xFF),
        BitVec.ofNat 8 ((s.chains.get c).census.getD 0xFF), BitVec.ofNat 8 ((s.chains.get c).lastMismatch.getD 0xFF),
        BitVec.ofNat 8 (s.chains.get c).echoMiss,
        BitVec.ofNat 8 ((if (s.chains.get c).pend.census then 1 else 0) + (if (s.chains.get c).pend.brightness then 2 else 0) +
          (if (s.chains.get c).pend.detail then 4 else 0) + (if (s.chains.get c).pend.sweep then 8 else 0) +
          (if (s.chains.get c).pend.test then 16 else 0) + (if (s.chains.get c).duty.isSome then 128 else 0))] ++
      twoOctets ((s.chains.get c).duty.getD 0) := by
  have port : octet (((s.portOf c).map Fin.val).getD 0xFF) =
      if s.used c then BitVec.ofNat 8 (s.options.crossbar.get c).val else 0xFF := by
    rw [State.portOf]
    split <;> rfl
  rw [chainData, port]
  rfl

/-- The data of CHAIN do not show how far a chain's operation has run. -/
theorem chainData_congr {s u : State} (c : Fin 4) (startUp : u.startUp = s.startUp) {bits : Nat}
    (chain : u.chains.get c = { s.chains.get c with bitCount := bits }) : chainData u c = chainData s c := by
  have used : u.used c = s.used c := by rw [State.used, startUp]; rfl
  have options : u.options = s.options := by rw [State.options, startUp]; rfl
  rw [chainData_eq, chainData_eq, chain, used, options]

/-! ### A QUERY answered by its item -/

/-- The item is not one of the seven, or its argument is out of its range (R184). -/
def Query.OutOfRange (q : Query) : Prop :=
  q.item = 0 ∨ 7 < q.item.toNat ∨ (q.item = 1 ∧ 8 ≤ q.argument.toNat) ∨ ((q.item = 2 ∨ q.item = 3) ∧ 64 ≤ q.argument.toNat) ∨
    (q.item = 4 ∧ 32 ≤ q.argument.toNat) ∨ (q.item = 6 ∧ 4 ≤ q.argument.toNat)

section
variable {q : Query} (s : State)

theorem State.answer_faults (item : q.item = 1) : s.answer q = s.answerFaults q := by rw [State.answer, item]; rfl
theorem State.answer_tile (item : q.item = 2) : s.answer q = s.answerTile q := by rw [State.answer, item]; rfl
theorem State.answer_tileDetail (item : q.item = 3) : s.answer q = s.answerTileDetail q := by rw [State.answer, item]; rfl
theorem State.answer_view (item : q.item = 4) : s.answer q = s.answerView q := by rw [State.answer, item]; rfl
theorem State.answer_levels (item : q.item = 5) : s.answer q = s.answerLevels q := by rw [State.answer, item]; rfl
theorem State.answer_chain (item : q.item = 6) : s.answer q = s.answerChain q := by rw [State.answer, item]; rfl
theorem State.answer_line (item : q.item = 7) : s.answer q = s.answerLine q := by rw [State.answer, item]; rfl

/-- An item or an argument out of range is answered BAD_ITEM (R184). -/
theorem State.answer_outOfRange (h : q.OutOfRange) : s.answer q = s.reply q .badItem [] := by
  rcases h with item | large | ⟨item, out⟩ | ⟨item | item, out⟩ | ⟨item, out⟩ | ⟨item, out⟩
  · rw [State.answer, item]; rfl
  · rw [State.answer]
    split
    case h_8 => rfl
    all_goals omega
  · rw [s.answer_faults item, State.answerFaults, if_neg (by omega)]; rfl
  · rw [s.answer_tile item, State.answerTile, dif_neg (by omega)]; rfl
  · rw [s.answer_tileDetail item, State.answerTileDetail, dif_neg (by omega)]; rfl
  · rw [s.answer_view item, State.answerView, dif_neg (by omega)]; rfl
  · rw [s.answer_chain item, State.answerChain, dif_neg (by omega)]; rfl

end

/-! ### A QUERY heard -/

section
variable {q : Query} {row : Instr} {s u : State} (r : q.Row row) (heard : s.Hears q.frameOctets u) (other : s.NotHeldBack q.asker)
include r heard other

/-- A QUERY for another station, or heard by a listen-only station, is counted good and goes no further (R42, R43, R54). -/
theorem Query.Row.exec_ignored (h : s.line.listenOnly = true ∨ q.target ≠ s.ownAddress.setWidth 16) :
    exec row s = .next u.countGood := by
  have ignored : u.countGood.addressed q.target = false := by
    rcases h with listens | elsewhere <;> simp [State.addressed, heard.line_eq, heard.ownAddress_eq, *]
  rw [r.exec_eq, State.hear_other heard q.frameOctets_complete other, State.handQuery, if_neg (by simp [ignored])]

/-- A QUERY for this station is answered (R43, R184). -/
theorem Query.Row.exec_answered (speaks : s.line.listenOnly = false) (here : q.target = s.ownAddress.setWidth 16) :
    exec row s = .next (u.countGood.answer q) := by
  have addressed : u.countGood.addressed q.target = true := by
    simp [State.addressed, heard.line_eq, heard.ownAddress_eq, speaks, here]
  rw [r.exec_eq, State.hear_other heard q.frameOctets_complete other, State.handQuery, if_pos addressed]

end

/-- Every row that stands for a QUERY does the same (log entry 19). -/
theorem Query.Row.exec_congr {q : Query} {row row_ : Instr} (r : q.Row row) (r_ : q.Row row_) (s : State) :
    exec row s = exec row_ s := (r.exec_eq s).trans (r_.exec_eq s).symm

/-- The REPLY to a QUERY that has been heard (R185). -/
theorem State.Hears.reply_eq {s u : State} {octets : List Octet} (heard : s.Hears octets u) (q : Query) (status : ReplyStatus)
    (data : List Octet) : u.countGood.reply q status data = { u with
      line := s.line.afterGood.offer
        { urgency := .order, sender := s.ownAddress, kind := .reply
          payload := [BitVec.ofNat 8 (q.asker.toNat / 256), BitVec.ofNat 8 q.asker.toNat, q.tag, q.item, q.argument,
            BitVec.ofNat 8 status.code] ++ data } } := by
  rw [← heard.line_eq, ← heard.ownAddress_eq]
  rfl

/-- The data of CHAIN after a frame has been heard. -/
theorem State.Hears.chainData_eq {s u : State} {octets : List Octet} (heard : s.Hears octets u) (c : Fin 4) :
    chainData u.countGood c = chainData s c := by
  obtain ⟨-, -, -, _, _, w, -, -, -, split⟩ := id heard
  refine chainData_congr (bits := ((s.arriveAt w.sampledAt).chains.get c).bitCount) c heard.startUp_eq ?_
  rw [State.countGood_chains, split]
  exact State.passHalves_chain_eq _ s c

/-- Settles O59: a QUERY that has been heard is answered by its item, whatever row stands for it; the data of each item are those of
the state before, but that the QUERY itself is counted good. -/
theorem queriesAnswered : Obligations.QueriesAnswered := by
  unfold Obligations.QueriesAnswered
  intro asker target item arg tag s u heard other
  refine ⟨fun unheard row r => ?_, fun speaks here answered replies => ?_⟩
  · rw [← heard.countGood_eq]
    exact Query.Row.exec_ignored (q := ⟨asker, target, item, arg, tag⟩) r heard other unheard
  have sends (row : Instr) (r : Query.Row ⟨asker, target, item, arg, tag⟩ row) (status : ReplyStatus) (data : List Octet)
      (answer : u.countGood.answer ⟨asker, target, item, arg, tag⟩ = u.countGood.reply ⟨asker, target, item, arg, tag⟩ status data) :
      exec row s = .next (answered status.code data) := by
    rw [r.exec_answered heard other speaks here, answer, replies]
    exact congrArg _ (heard.reply_eq _ status data)
  have badItem (row : Instr) (r : Query.Row ⟨asker, target, item, arg, tag⟩ row)
      (out : Query.OutOfRange ⟨asker, target, item, arg, tag⟩) : exec row s = .next (answered 3 []) :=
    sends row r .badItem [] (State.answer_outOfRange _ out)
  have faults : u.faults = s.faults := heard.keeps .faults (by simp)
  have tiles : u.collector = s.collector := heard.keeps .collector (by simp)
  have neighbours : u.neighbours = s.neighbours := heard.keeps .neighbours (by simp)
  have settling : u.settling = s.settling := heard.keeps .settling (by simp)
  have cap : u.cap = s.cap := heard.keeps .cap (by simp)
  refine ⟨badItem _ .queryBadItem, ⟨?_, ?_, ?_, ?_, ?_⟩, ⟨?_, ?_, ?_, ?_, ?_, ?_, ?_⟩, ?_, ?_, ?_, ?_, ?_, ?_⟩
  · exact fun item out => badItem _ (.faults item) (.inr (.inr (.inl ⟨item, out⟩)))
  · exact fun item out => badItem _ (.tile item) (.inr (.inr (.inr (.inl ⟨.inl item, out⟩))))
  · exact fun item out => badItem _ (.tileDetail item) (.inr (.inr (.inr (.inl ⟨.inr item, out⟩))))
  · exact fun item out => badItem _ (.view item) (.inr (.inr (.inr (.inr (.inl ⟨item, out⟩)))))
  · exact fun item out => badItem _ (.chain item) (.inr (.inr (.inr (.inr (.inr ⟨item, out⟩)))))
  · exact Query.Row.exec_congr (q := ⟨asker, target, 1, arg, tag⟩) .queryBadItem (.faults rfl) s
  · exact Query.Row.exec_congr (q := ⟨asker, target, 2, arg, tag⟩) .queryBadItem (.tile rfl) s
  · exact Query.Row.exec_congr (q := ⟨asker, target, 3, arg, tag⟩) .queryBadItem (.tileDetail rfl) s
  · exact Query.Row.exec_congr (q := ⟨asker, target, 4, arg, tag⟩) .queryBadItem (.view rfl) s
  · exact Query.Row.exec_congr (q := ⟨asker, target, 5, arg, tag⟩) .queryBadItem (.levels rfl) s
  · exact Query.Row.exec_congr (q := ⟨asker, target, 6, arg, tag⟩) .queryBadItem (.chain rfl) s
  · exact Query.Row.exec_congr (q := ⟨asker, target, 7, arg, tag⟩) .queryBadItem (.line rfl) s
  · intro n entry item small count entries
    refine sends _ (.faults item) .ok _ ?_
    rw [State.answer_faults _ item, State.answerFaults, if_pos (Nat.le_of_lt_succ small), State.countGood_faults, faults,
      faultsData_eq _ _ n entry count entries]
  · rintro small tile named rfl
    have answer := (State.answer_tile u.countGood (q := ⟨asker, target, item, arg, tag⟩) named).trans (dif_pos small)
    rw [State.countGood_collector, tiles] at answer
    exact ⟨fun marked => sends _ (.tile named) .ok _
        (answer.trans ((if_pos marked).trans (congrArg (State.reply _ .ok · _) (tileData_eq _)))),
      fun absent => sends _ (.tile named) .unavailable [] (answer.trans (if_neg (by simp [absent])))⟩
  · intro small named
    have answer := (State.answer_view u.countGood (q := ⟨asker, target, item, arg, tag⟩) named).trans (dif_pos small)
    rw [State.countGood_neighbours, neighbours] at answer
    refine ⟨fun empty => sends _ (.view named) .ok _ ?_, fun n record => sends _ (.view named) .ok _ ?_⟩
    · rw [answer, viewData_none empty]
    · rw [answer, viewData_some record, recordData_eq]
  · rintro packed named rfl
    refine sends _ (.levels named) .ok _ ((State.answer_levels _ named).trans ?_)
    rw [State.answerLevels, levelsData_congr (u := u.countGood) settling neighbours cap, levelsData_eq]
  · rintro small ch item rfl
    refine sends _ (.chain item) .ok _ ((State.answer_chain _ item).trans ((dif_pos small).trans ?_))
    rw [heard.chainData_eq, chainData_eq]
  · intro item
    refine sends _ (.line item) .ok _ ((State.answer_line _ item).trans ?_)
    rw [State.answerLine, lineData, State.countGood_startUp, heard.startUp_eq, heard.countGood_eq]
    rfl

end Sys2Proof.Machine
end

section
/-! The view windows: the slots that they give, the tests on their slot ranges, and the slot of an address (R58 to R62). -/

namespace Sys2Proof.Machine

open Sys2Proof

/-! ### A window and its slot range -/

/-- The entries of a table are those that stand at its places. -/
theorem mem_cells_iff {α : Type} {n : Nat} {t : Table α n} {x : α} : x ∈ t.cells ↔ ∃ k, t.get k = x := by
  rw [List.mem_iff_getElem]
  exact ⟨fun ⟨k, h, e⟩ => ⟨⟨k, t.size ▸ h⟩, e⟩, fun ⟨k, e⟩ => ⟨k.val, t.size.symm ▸ k.isLt, e⟩⟩

/-- The slot that a window gives an address lies in its slot range. -/
theorem windowSlot_mem_range (w : ViewWindow) (a : Addr) : w.offset ≤ windowSlot w a ∧ windowSlot w a ≤ slotEnd w := by
  have free : (a &&& ~~~w.mask).toNat ≤ (~~~w.mask).toNat := by
    rw [BitVec.toNat_and]
    exact Nat.and_le_right
  unfold windowSlot slotEnd freePart
  omega

/-- A window gives different slots to different addresses that it admits: they agree in the bits that it compares, so they differ in
the others. -/
theorem windowSlot_injective {w : ViewWindow} {a b : Addr} (ha : windowMatches w a = true) (hb : windowMatches w b = true)
    (same : windowSlot w a = windowSlot w b) : a = b := by
  simp only [windowMatches, Bool.and_eq_true, beq_iff_eq] at ha hb
  have compared : a &&& w.mask = b &&& w.mask := ha.2.trans hb.2.symm
  have free : a &&& ~~~w.mask = b &&& ~~~w.mask := BitVec.eq_of_toNat_eq (Nat.add_left_cancel same)
  have split : ∀ c : Addr, (c &&& w.mask) ||| (c &&& ~~~w.mask) = c := fun c => by
    rw [← BitVec.and_or_distrib_left, BitVec.or_not_self, BitVec.and_allOnes]
  rw [← split a, compared, free, split b]

/-- Slot ranges overlap when some slot lies in both. -/
theorem rangesOverlap_iff {v w : ViewWindow} :
    rangesOverlap v w = true ↔ ∃ n, (v.offset ≤ n ∧ n ≤ slotEnd v) ∧ w.offset ≤ n ∧ n ≤ slotEnd w := by
  simp only [rangesOverlap, Bool.and_eq_true, decide_eq_true_eq]
  have hv : v.offset ≤ slotEnd v := Nat.le_add_right _ _
  have hw : w.offset ≤ slotEnd w := Nat.le_add_right _ _
  exact ⟨fun ⟨h, k⟩ => ⟨max v.offset w.offset, by omega⟩, fun ⟨n, h, k⟩ => by omega⟩

/-! ### The slot of an address -/

theorem slotOf_eq_some {n : Nat} {i : Fin 32} : slotOf n = some i ↔ n = i.val := by
  unfold slotOf
  split
  · simp [Fin.ext_iff]
  · next h => exact ⟨nofun, fun e => absurd (e ▸ i.isLt) h⟩

/-- The slot of an address is given by a window that admits it (R59). -/
theorem translate_eq_some {ws : Table ViewWindow 3} {a : Addr} {i : Fin 32} (h : translate ws a = some i) :
    ∃ k, windowMatches (ws.get k) a = true ∧ windowSlot (ws.get k) a = i.val := by
  unfold translate at h
  split at h
  · next w found =>
    obtain ⟨k, rfl⟩ := mem_cells_iff.mp (List.mem_of_find?_eq_some found)
    exact ⟨k, List.find?_some (p := fun w => windowMatches w a) found, slotOf_eq_some.mp h⟩
  · cases h

/-- The first window comes first (R59). -/
theorem translate_of_first {ws : Table ViewWindow 3} {a : Addr} (h : windowMatches (ws.get 0) a = true) :
    translate ws a = slotOf (windowSlot (ws.get 0) a) := by
  have cells : ws.cells = ws.get 0 :: ws.cells.tail := by
    obtain ⟨cells, size⟩ := ws
    cases cells with
    | nil => cases size
    | cons w rest => rfl
  rw [translate, cells, List.find?_cons_of_pos (p := fun w => windowMatches w a) h]

theorem windowMatches_enabled {w : ViewWindow} {a : Addr} (h : windowMatches w a = true) : w.enabled = true :=
  (Bool.and_eq_true_iff.mp h).1

/-- An address that a sound window admits has a slot in 0..31 (R59, R60). -/
theorem WindowsSound.translate_isSome {ws : Table ViewWindow 3} (h : WindowsSound ws) {a : Addr} {k : Fin 3}
    (admits : windowMatches (ws.get k) a = true) : (translate ws a).isSome = true := by
  obtain ⟨within, -⟩ := h
  unfold translate
  split
  · next w found =>
    obtain ⟨j, rfl⟩ := mem_cells_iff.mp (List.mem_of_find?_eq_some found)
    have last := within j (windowMatches_enabled (List.find?_some (p := fun w => windowMatches w a) found))
    have := windowSlot_mem_range (ws.get j) a
    simp only [slotOf, show windowSlot (ws.get j) a < 32 by omega, dif_pos, Option.isSome_some]
  · next none => exact absurd admits (List.find?_eq_none.mp none _ (mem_cells_iff.mpr ⟨k, rfl⟩))

/-- Two enabled windows at different places share no slot (R61). -/
theorem WindowsSound.apart {ws : Table ViewWindow 3} (h : WindowsSound ws) {j k : Fin 3} (ne : j ≠ k)
    (hj : (ws.get j).enabled = true) (hk : (ws.get k).enabled = true) (n : Nat)
    (inJ : (ws.get j).offset ≤ n ∧ n ≤ slotEnd (ws.get j)) : ¬((ws.get k).offset ≤ n ∧ n ≤ slotEnd (ws.get k)) := by
  obtain ⟨-, apart⟩ := h
  intro inK
  rcases Nat.lt_or_gt_of_ne (Fin.val_ne_of_ne ne) with lt | lt
  · exact Bool.false_ne_true ((apart j k lt hj hk).symm.trans (rangesOverlap_iff.mpr ⟨n, inJ, inK⟩))
  · exact Bool.false_ne_true ((apart k j lt hk hj).symm.trans (rangesOverlap_iff.mpr ⟨n, inK, inJ⟩))

/-- No two addresses have one slot (R59, R61). -/
theorem WindowsSound.translate_injective {ws : Table ViewWindow 3} (h : WindowsSound ws) {a b : Addr} {i : Fin 32}
    (ha : translate ws a = some i) (hb : translate ws b = some i) : a = b := by
  obtain ⟨j, matchesA, slotA⟩ := translate_eq_some ha
  obtain ⟨k, matchesB, slotB⟩ := translate_eq_some hb
  by_cases same : j = k
  · subst same
    exact windowSlot_injective matchesA matchesB (slotA.trans slotB.symm)
  · exact absurd (slotB ▸ windowSlot_mem_range (ws.get k) b)
      (h.apart same (windowMatches_enabled matchesA) (windowMatches_enabled matchesB) i.val (slotA ▸ windowSlot_mem_range (ws.get j) a))

/-! ### The tests of a window -/

section
variable {earlier : List ViewWindow} {w : ViewWindow}

/-- The test of R60. -/
theorem windowFault_eq_one : windowFault earlier w = some 1 ↔ w.enabled = true ∧ 31 < slotEnd w := by
  unfold windowFault
  split_ifs <;> simp_all

/-- The test of R61, which a window comes to only when it has passed that of R60. -/
theorem windowFault_eq_two : windowFault earlier w = some 2 ↔
    w.enabled = true ∧ slotEnd w ≤ 31 ∧ ∃ v ∈ earlier, v.enabled = true ∧ rangesOverlap v w = true := by
  unfold windowFault
  split_ifs <;> simp_all

/-- A window's tests have no other detail. -/
theorem windowFault_detail {d : Nat} (h : windowFault earlier w = some d) : d = 1 ∨ d = 2 := by
  unfold windowFault at h
  split_ifs at h <;> simp_all

/-- A window without earlier ones passes the test of R61. -/
theorem windowFault_first_detail {d : Nat} (h : windowFault [] w = some d) : d = 1 := by
  unfold windowFault at h
  split_ifs at h <;> simp_all

/-- A window stays enabled when it passes both tests. -/
theorem testedWindow_enabled : (testedWindow earlier w).enabled = true ↔
    w.enabled = true ∧ slotEnd w ≤ 31 ∧ ∀ v ∈ earlier, v.enabled = true → rangesOverlap v w = false := by
  simp only [testedWindow, Bool.and_eq_true]
  unfold windowFault
  split_ifs <;> simp_all

end

/-! ### The three windows in order -/

/-- The entries before a place of a table. -/
theorem mem_take_cells_iff {α : Type} {n : Nat} {t : Table α n} {k : Fin n} {x : α} :
    x ∈ t.cells.take k.val ↔ ∃ j, j < k ∧ t.get j = x := by
  rw [List.mem_take_iff_getElem]
  constructor
  · rintro ⟨j, h, e⟩
    have before : j < k.val := by omega
    exact ⟨⟨j, by omega⟩, before, e⟩
  · rintro ⟨j, h, e⟩
    exact ⟨j.val, by have := t.size; omega, e⟩

theorem mem_faultRaise {group : Nat} {fault : Option Nat} {r : Nat × Nat} :
    r ∈ faultRaise group fault ↔ ∃ d, fault = some d ∧ r = (group, d) := by
  cases fault <;> simp [faultRaise]

section
variable (w0 w1 w2 : ViewWindow)

/-- The three windows as they were read. -/
def readWindows : Table ViewWindow 3 := ⟨[w0, w1, w2], rfl⟩

/-- The detail of the test that a window fails, against those before it as they stand after their own tests (R58, R60, R61). -/
def windowFaultAt (k : Fin 3) : Option Nat :=
  windowFault ((testedWindows w0 w1 w2).cells.take k.val) ((readWindows w0 w1 w2).get k)

theorem testedWindows_get (k : Fin 3) : (testedWindows w0 w1 w2).get k =
    testedWindow ((testedWindows w0 w1 w2).cells.take k.val) ((readWindows w0 w1 w2).get k) := by
  fin_cases k <;> rfl

/-- A test changes nothing but whether the window is enabled. -/
theorem testedWindows_get_eq (k : Fin 3) : (testedWindows w0 w1 w2).get k =
    { (readWindows w0 w1 w2).get k with enabled := ((testedWindows w0 w1 w2).get k).enabled } := by
  rw [testedWindows_get]; rfl

theorem slotEnd_testedWindows (k : Fin 3) : slotEnd ((testedWindows w0 w1 w2).get k) = slotEnd ((readWindows w0 w1 w2).get k) := by
  rw [testedWindows_get]; rfl

theorem rangesOverlap_testedWindows (j : Fin 3) (w : ViewWindow) :
    rangesOverlap ((testedWindows w0 w1 w2).get j) w = rangesOverlap ((readWindows w0 w1 w2).get j) w := by
  rw [testedWindows_get]; rfl

/-- A window that was read enabled stays so when it reaches no slot above 31 and shares none with an earlier one that is still
enabled (R60, R61). -/
theorem testedWindows_enabled (k : Fin 3) : ((testedWindows w0 w1 w2).get k).enabled = true ↔
    ((readWindows w0 w1 w2).get k).enabled = true ∧ slotEnd ((readWindows w0 w1 w2).get k) ≤ 31 ∧
      ∀ j, j < k → ((testedWindows w0 w1 w2).get j).enabled = true →
        rangesOverlap ((readWindows w0 w1 w2).get j) ((readWindows w0 w1 w2).get k) = false := by
  rw [testedWindows_get, testedWindow_enabled]
  simp only [mem_take_cells_iff, forall_exists_index, and_imp]
  refine and_congr_right fun _ => and_congr_right fun _ => ⟨fun h j lt on => ?_, ?_⟩
  · rw [← rangesOverlap_testedWindows]
    exact h _ j lt rfl on
  · rintro h _ j lt rfl on
    rw [rangesOverlap_testedWindows]
    exact h j lt on

/-- After the tests no window reaches above slot 31 and no two share a slot (R60, R61). -/
theorem windowsSound_testedWindows : WindowsSound (testedWindows w0 w1 w2) := by
  refine ⟨fun k on => ?_, fun j k lt onJ onK => ?_⟩
  · obtain ⟨-, within, -⟩ := (testedWindows_enabled w0 w1 w2 k).mp on
    rwa [slotEnd_testedWindows]
  · obtain ⟨-, -, apart⟩ := (testedWindows_enabled w0 w1 w2 k).mp onK
    rw [rangesOverlap_testedWindows, testedWindows_get_eq]
    exact apart j lt onJ

/-- The raises of the windows' tests: that of window k is of group 2 + k (R205). -/
theorem mem_windowRaises {r : Nat × Nat} :
    r ∈ windowRaises w0 w1 w2 ↔ ∃ k : Fin 3, ∃ d, windowFaultAt w0 w1 w2 k = some d ∧ r = (2 + k.val, d) := by
  rw [show windowRaises w0 w1 w2 = faultRaise 2 (windowFaultAt w0 w1 w2 0) ++ faultRaise 3 (windowFaultAt w0 w1 w2 1) ++
    faultRaise 4 (windowFaultAt w0 w1 w2 2) from rfl]
  simp [mem_faultRaise, Fin.exists_fin_succ]

/-- The tests' details are those of R60 and R61, and window 0 can fail only that of R60. -/
theorem windowRaises_mem {r : Nat × Nat} (h : r ∈ windowRaises w0 w1 w2) :
    r = (2, 1) ∨ ((r.1 = 3 ∨ r.1 = 4) ∧ (r.2 = 1 ∨ r.2 = 2)) := by
  obtain ⟨k, d, fault, rfl⟩ := (mem_windowRaises w0 w1 w2).mp h
  match k with
  | 0 => rw [windowFault_first_detail fault]; exact .inl rfl
  | 1 => exact .inr ⟨.inl rfl, windowFault_detail fault⟩
  | 2 => exact .inr ⟨.inr rfl, windowFault_detail fault⟩

/-- Window k is among the raises with the detail of the test that it fails. -/
theorem windowRaise_mem_iff (k : Fin 3) (d : Nat) :
    (2 + k.val, d) ∈ windowRaises w0 w1 w2 ↔ windowFaultAt w0 w1 w2 k = some d := by
  rw [mem_windowRaises]
  constructor
  · rintro ⟨j, e, fault, same⟩
    obtain ⟨place, rfl⟩ := Prod.mk.inj same
    obtain rfl : k = j := Fin.ext (by omega)
    exact fault
  · exact fun fault => ⟨k, d, fault, rfl⟩

/-- R60: a window that was read enabled and reaches above slot 31. -/
theorem windowFaultAt_eq_one (k : Fin 3) : windowFaultAt w0 w1 w2 k = some 1 ↔
    ((readWindows w0 w1 w2).get k).enabled = true ∧ 31 < slotEnd ((readWindows w0 w1 w2).get k) := windowFault_eq_one

/-- R61: a window that was read enabled, passes the test of R60, and shares a slot with an earlier one that is still enabled. -/
theorem windowFaultAt_eq_two (k : Fin 3) : windowFaultAt w0 w1 w2 k = some 2 ↔
    ((readWindows w0 w1 w2).get k).enabled = true ∧ slotEnd ((readWindows w0 w1 w2).get k) ≤ 31 ∧
      ∃ j, j < k ∧ ((testedWindows w0 w1 w2).get j).enabled = true ∧
        rangesOverlap ((readWindows w0 w1 w2).get j) ((readWindows w0 w1 w2).get k) = true := by
  rw [windowFaultAt, windowFault_eq_two]
  refine and_congr_right fun _ => and_congr_right fun _ => ⟨?_, ?_⟩
  · rintro ⟨v, before, on, shares⟩
    obtain ⟨j, lt, rfl⟩ := mem_take_cells_iff.mp before
    exact ⟨j, lt, on, by rwa [rangesOverlap_testedWindows] at shares⟩
  · rintro ⟨j, lt, on, shares⟩
    exact ⟨_, mem_take_cells_iff.mpr ⟨j, lt, rfl⟩, on, by rwa [rangesOverlap_testedWindows]⟩

/-- The raises of the corrections keep their group and detail, where these are numbers of six and of sixteen bits. -/
theorem mem_configRaises {raises : List (Nat × Nat)} (small : ∀ r ∈ raises, r.1 < 64 ∧ r.2 < 65536) {group detail : Nat}
    (hg : group < 64) (hd : detail < 65536) :
    (FaultKind.configDefaulted, BitVec.ofNat 6 group, FaultAction.raise (some (BitVec.ofNat 16 detail))) ∈ configRaises raises ↔
      (group, detail) ∈ raises := by
  simp only [configRaises, List.mem_map, Prod.mk.injEq, true_and, FaultAction.raise.injEq, Option.some.injEq]
  constructor
  · rintro ⟨⟨g, d⟩, mem, sameGroup, sameDetail⟩
    have ⟨hg', hd'⟩ := small _ mem
    have eg := congrArg BitVec.toNat sameGroup
    have ed := congrArg BitVec.toNat sameDetail
    simp only [BitVec.toNat_ofNat] at eg ed
    obtain rfl : g = group := by omega
    obtain rfl : d = detail := by omega
    exact mem
  · exact fun mem => ⟨_, mem, rfl, rfl⟩

/-- The raise of window k with a detail is made exactly when the window fails that test. -/
theorem windowRaise_made_iff (k : Fin 3) {d : Nat} (hd : d < 65536) :
    (FaultKind.configDefaulted, BitVec.ofNat 6 (2 + k.val), FaultAction.raise (some (BitVec.ofNat 16 d))) ∈
      configRaises (windowRaises w0 w1 w2) ↔ windowFaultAt w0 w1 w2 k = some d := by
  rw [mem_configRaises (fun r mem => ?_) (by omega) hd, windowRaise_mem_iff]
  rcases windowRaises_mem w0 w1 w2 mem with rfl | ⟨group, test⟩ <;> omega

end

/-! ### The windows that are applied -/

theorem appliedOf_none (own : Addr) : appliedOf own none = applyDefaults own 1 := rfl

/-- A sound block is applied (R203). -/
theorem appliedOf_sound (own : Addr) {b : List Octet} (length : b.length = 91) (sum : octetSum b = 255) :
    appliedOf own (some b) = applyBlock own b := by
  simp [appliedOf, blockSound, Config.blockOctets, length, sum]

/-- A block with a bad check is not applied (R203). -/
theorem appliedOf_bad (own : Addr) {b : List Octet} (sum : octetSum b ≠ 255) : appliedOf own (some b) = applyDefaults own 2 := by
  simp [appliedOf, blockSound, sum]

/-- The default window reaches slot 15 (R58). -/
theorem slotEnd_defaultWindow (own : Addr) : slotEnd (defaultWindow own) = 15 := by
  show 0 + (~~~(0x3F0 : Addr)).toNat = 15
  decide

/-- The default window passes its tests (R58). -/
theorem applyDefaults_window (own : Addr) (detail : Nat) : (applyDefaults own detail).windows.get 0 = defaultWindow own := by
  have passed : windowFault [] (defaultWindow own) = none := by simp [windowFault, slotEnd_defaultWindow]
  show testedWindow [] (defaultWindow own) = defaultWindow own
  rw [testedWindow, passed]
  rfl

/-- The default window gives the own address the slot of its last four bits (R58, R62). -/
theorem applyDefaults_ownSlot (own : Addr) (detail : Nat) :
    (applyDefaults own detail).ownSlot = some ⟨own.toNat % 16, by omega⟩ := by
  have window := applyDefaults_window own detail
  have first : translate (applyDefaults own detail).windows own = slotOf (windowSlot (defaultWindow own) own) := by
    rw [← window]
    exact translate_of_first (by rw [window]; simp [windowMatches, defaultWindow])
  have slot : windowSlot (defaultWindow own) own = own.toNat % 16 := by
    show 0 + (own &&& ~~~(0x3F0 : Addr)).toNat = own.toNat % 16
    rw [Nat.zero_add, BitVec.toNat_and]
    exact Nat.and_two_pow_sub_one_eq_mod own.toNat 4
  exact first.trans (slotOf_eq_some.mpr slot)

/-- The raises of the windows' tests stand among those of the block, with that of an absent own slot between them (R205). -/
theorem windowRaises_subset_applyBlock (own : Addr) (b : List Octet) {r : Nat × Nat}
    (h : r ∈ windowRaises (blockWindow b 0) (blockWindow b 1) (blockWindow b 2)) : r ∈ (applyBlock own b).raises := by
  by_cases group : r.1 = 2 <;> simp [applyBlock, h, group]

/-- Settles O26: the tests of the windows one by one, the slots of a sound set of windows, and the windows that start-up applies. -/
theorem noSharedSlot : Obligations.NoSharedSlot := by
  unfold Obligations.NoSharedSlot
  refine ⟨?_, fun own b length sum => ?_, fun own => ?_⟩
  · rintro w0 w1 w2 read _ shares (isRead : read = readWindows w0 w1 w2) rfl shared
    subst isRead
    have overlap : ∀ v w, shares v w ↔ rangesOverlap v w = true := fun v w => (shared v w).trans rangesOverlap_iff.symm
    have sound := windowsSound_testedWindows w0 w1 w2
    refine ⟨fun k => ⟨testedWindows_get_eq w0 w1 w2 k, ?_, ?_, ?_⟩, fun a k => sound.translate_isSome,
      fun a b i => sound.translate_injective⟩
    · simp only [overlap, Bool.not_eq_true]
      exact testedWindows_enabled w0 w1 w2 k
    · exact (windowRaise_made_iff w0 w1 w2 k (by decide)).trans (windowFaultAt_eq_one w0 w1 w2 k)
    · simp only [overlap]
      exact (windowRaise_made_iff w0 w1 w2 k (by decide)).trans (windowFaultAt_eq_two w0 w1 w2 k)
  · rw [appliedOf_sound own length sum]
    exact ⟨rfl, fun r mem => windowRaises_subset_applyBlock own b mem⟩
  · rw [appliedOf_none, applyDefaults_window]
    rfl

end Sys2Proof.Machine
end

section
/-! The values of an option block: how each field is read and corrected, and that what is applied lies in range (R203 to R208, R216). -/

namespace Sys2Proof.Machine

open Sys2Proof

/-! ### Fields and corrections -/

theorem field_lt (b : List Octet) (k : Nat) : field b k < 256 := (octetAt b k).isLt

/-- A field of two octets has the more significant one first (R216). -/
theorem fieldTwo_eq (b : List Octet) (k : Nat) : fieldTwo b k = 256 * field b k + field b (k + 1) := by
  unfold fieldTwo wordAt field
  rw [BitVec.toNat_append, ← Nat.shiftLeft_add_eq_or_of_lt (octetAt b (k + 1)).isLt, Nat.shiftLeft_eq]
  omega

theorem clamp_eq {lo hi : Nat} (h : lo ≤ hi) (v : Nat) : clamp lo hi v = max lo (min v hi) := by
  unfold clamp
  omega

theorem clamp_mem {lo hi : Nat} (h : lo ≤ hi) (v : Nat) : lo ≤ clamp lo hi v ∧ clamp lo hi v ≤ hi :=
  ⟨le_clamp v h, clamp_le lo hi v⟩

theorem clamp_zero (hi v : Nat) : clamp 0 hi v = min v hi := by simp [clamp]

/-- An octet clamped at the top of its range is only raised. -/
theorem clamp_octet {lo v : Nat} (h : lo ≤ 255) (hv : v < 256) : clamp lo 255 v = max lo v := by
  unfold clamp
  omega

theorem codeOrDefault_changed {default code : Nat} (h : default ≤ 3) : code ≠ codeOrDefault default code ↔ ¬code ≤ 3 := by
  unfold codeOrDefault
  split <;> omega

/-- The codes of the line rates, with the default's for any other (R204). -/
theorem lineRateOf_codeOrDefault (n : Nat) : lineRateOf (codeOrDefault 1 n) =
    if n = 0 then .kbit31 else if n = 2 then .kbit125 else if n = 3 then .kbit250 else .kbit62 := by
  unfold codeOrDefault
  match n with
  | 0 | 1 | 2 | 3 => rfl
  | k + 4 => simp [lineRateOf]

/-- The codes of the gate lengths, with the default's for any other (R208). -/
theorem gateOf_codeOrDefault (n : Nat) : gateOf (codeOrDefault 1 n) =
    if n = 0 then 50000 else if n = 2 then 200000 else if n = 3 then 400000 else 100000 := by
  unfold codeOrDefault
  match n with
  | 0 | 1 | 2 | 3 => rfl
  | k + 4 => simp [gateOf]

/-- The codes of the droop levels, with the default's for any other (R208). -/
theorem droopOf_codeOrDefault (n : Nat) : droopOf (codeOrDefault 2 n) = if n ≤ 3 then 27 + n else 29 := by
  unfold codeOrDefault
  match n with
  | 0 | 1 | 2 | 3 => rfl
  | k + 4 => simp [droopOf]

/-- A trim is a sign bit and three bits of magnitude (R9). -/
theorem trimOf_eq (nibble : BitVec 4) :
    trimOf nibble = if nibble.toNat < 8 then (nibble.toNat : Int) else 8 - (nibble.toNat : Int) := by
  revert nibble
  decide

/-! ### Group 1 -/

/-- The stale time leaves room for a longer evict time (R204). -/
theorem staleOf_lt (b : List Octet) : staleOf b + 1 ≤ 255 :=
  Nat.succ_le_succ ((clamp_le 2 60 (field b 13)).trans (by decide))

theorem blockOptions_settlingInRange (b : List Octet) : (blockOptions b).SettlingInRange :=
  ⟨clamp_mem (by decide) _, clamp_mem (by decide) _, clamp_mem (by decide) _, clamp_mem (by decide) _, clamp_mem (by decide) _,
    clamp_mem (by decide) _, clamp_le _ _ _, clamp_le _ _ _, clamp_mem (by decide) _, clamp_mem (by decide) _,
    clamp_mem (staleOf_lt b) _⟩

/-! ### Group 5: the curve -/

/-- The test of R206 with this number fails on the block's curve. -/
def CurveFails (b : List Octet) : Nat → Prop
  | 1 => field b 30 < 2 ∨ 8 < field b 30
  | 2 => ∃ k, k < field b 30 ∧ 671 < fieldTwo b (31 + 4 * k)
  | 3 => ∃ k, k < field b 30 ∧ 511 < fieldTwo b (33 + 4 * k)
  | 4 => ∃ k, k + 1 < field b 30 ∧ fieldTwo b (31 + 4 * (k + 1)) ≤ fieldTwo b (31 + 4 * k)
  | 5 => ∃ k, k + 1 < field b 30 ∧ fieldTwo b (33 + 4 * (k + 1)) < fieldTwo b (33 + 4 * k)
  | _ => False

/-- The first breakpoints of a block, as many as there are in use. -/
theorem take_blockCurve (b : List Octet) {n : Nat} (h : n ≤ 8) :
    (blockCurve b).take n = (List.range n).map fun k => (fieldTwo b (31 + 4 * k), fieldTwo b (33 + 4 * k)) := by
  rw [blockCurve, ← List.map_take, List.take_range, Nat.min_eq_left h]

/-- A list rises when each member does against the one before it. -/
theorem rising_iff {strict : Bool} {l : List Nat} :
    rising strict l = true ↔ ∀ k (h : k + 1 < l.length), if strict then l[k] < l[k + 1] else l[k] ≤ l[k + 1] := by
  rw [← List.isChain_iff_getElem (R := fun x y => if strict then x < y else x ≤ y)]
  induction l with
  | nil => simp [rising]
  | cons x rest ih =>
    cases rest with
    | nil => simp [rising]
    | cons y rest =>
      rw [rising, Bool.and_eq_true, ih, List.isChain_cons_cons]
      cases strict <;> simp

/-- The rising test on a sequence of numbers fails where one of them does not rise. -/
theorem rising_map_range {strict : Bool} {n : Nat} {x : Nat → Nat} :
    rising strict ((List.range n).map x) = false ↔
      ∃ k, k + 1 < n ∧ if strict then x (k + 1) ≤ x k else x (k + 1) < x k := by
  rw [← Bool.not_eq_true, rising_iff]
  cases strict <;> simp

/-- The tests are made in their order, and the first that fails is reported (R206). -/
theorem curveFault_eq_ite (b : List Octet) [DecidablePred (CurveFails b)] :
    curveFault (field b 30) (blockCurve b) =
      if CurveFails b 1 then some 1 else if CurveFails b 2 then some 2 else if CurveFails b 3 then some 3
      else if CurveFails b 4 then some 4 else if CurveFails b 5 then some 5 else none := by
  have count : (decide (field b 30 < 2) || decide (field b 30 > 8)) = true ↔ CurveFails b 1 := by simp [CurveFails]
  unfold curveFault
  by_cases few : CurveFails b 1
  · rw [if_pos few, if_pos (count.mpr few)]
  · have points := take_blockCurve b (n := field b 30) (by simp only [CurveFails] at few; omega)
    rw [if_neg few, if_neg (mt count.mp few)]
    refine if_congr ?_ rfl (if_congr ?_ rfl (if_congr ?_ rfl (if_congr ?_ rfl rfl))) <;> rw [points]
    · simp [CurveFails]
    · simp [CurveFails]
    · simpa [CurveFails, Function.comp_def] using rising_map_range (strict := true) (x := fun k => fieldTwo b (31 + 4 * k))
    · simpa [CurveFails, Function.comp_def] using rising_map_range (strict := false) (x := fun k => fieldTwo b (33 + 4 * k))

/-- The first test that fails is the curve's fault. -/
theorem curveFault_of_first {b : List Octet} {d : Nat} (low : 1 ≤ d) (high : d ≤ 5) (fails : CurveFails b d)
    (first : ∀ e, 1 ≤ e → e < d → ¬CurveFails b e) : curveFault (field b 30) (blockCurve b) = some d := by
  classical
  rw [curveFault_eq_ite]
  interval_cases d <;> simp [fails, first]

/-- A curve that fails no test has no fault. -/
theorem curveFault_of_none {b : List Octet} (none : ∀ d, 1 ≤ d → d ≤ 5 → ¬CurveFails b d) :
    curveFault (field b 30) (blockCurve b) = .none := by
  classical
  rw [curveFault_eq_ite]
  simp [none]

/-- A curve without a fault fails no test. -/
theorem not_curveFails {b : List Octet} (h : curveFault (field b 30) (blockCurve b) = none) (d : Nat) : ¬CurveFails b d := by
  classical
  rw [curveFault_eq_ite] at h
  split_ifs at h
  match d with
  | 0 => exact id
  | 1 | 2 | 3 | 4 | 5 => assumption
  | k + 6 => exact id

theorem validCurve_builtInCurve : ValidCurve builtInCurve := by decide

/-- The curve that is applied is valid: as read, when it fails no test, or the built-in one (R206). -/
theorem validCurve_curveOf (b : List Octet) : ValidCurve (curveOf b) := by
  unfold curveOf
  split
  · exact validCurve_builtInCurve
  · next passed =>
    have count := not_curveFails passed 1
    have ambient := not_curveFails passed 2
    have level := not_curveFails passed 3
    have rises := not_curveFails passed 4
    have keeps := not_curveFails passed 5
    simp only [CurveFails, not_or, not_lt, not_exists, not_and] at count ambient level rises keeps
    rw [take_blockCurve b count.2]
    refine ⟨by simpa using count, ?_, ?_⟩
    · simp only [List.mem_map, List.mem_range]
      rintro _ ⟨k, used, rfl⟩
      exact ⟨ambient k used, level k used⟩
    · have : IsTrans (Nat × Nat) fun p q => p.1 < q.1 ∧ p.2 ≤ q.2 :=
        ⟨fun p q r h k => ⟨h.1.trans k.1, h.2.trans k.2⟩⟩
      rw [← List.isChain_iff_pairwise, List.isChain_iff_getElem]
      intro k last
      simp only [List.length_map, List.length_range] at last
      simp only [List.getElem_map, List.getElem_range]
      exact ⟨Nat.lt_of_not_le (rises k last), keeps k last⟩

/-! ### Group 6: the chains -/

/-- Counts cut to a total of 64: each is what the ones before it leave of that total, at most (R207). -/
theorem cutToTotal_getD (total : Nat) (counts : List Nat) (k : Nat) :
    (cutToTotal total counts).getD k 0 = min (counts.getD k 0) (64 - (total + (counts.take k).sum)) := by
  induction counts generalizing total k with
  | nil => simp [cutToTotal]
  | cons n rest ih =>
    unfold cutToTotal
    split
    · next exceeds =>
      cases k with
      | zero =>
        simp only [List.getD_cons_zero, List.take_zero, List.sum_nil]
        omega
      | succ k =>
        have zero : (rest.map fun _ => 0).getD k 0 = 0 := by simp [List.getD_eq_getElem?_getD]
        simp only [List.getD_cons_succ, List.take_succ_cons, List.sum_cons, zero]
        omega
    · next fits =>
      cases k with
      | zero =>
        simp only [List.getD_cons_zero, List.take_zero, List.sum_nil]
        omega
      | succ k => simp only [List.getD_cons_succ, List.take_succ_cons, List.sum_cons, ih, Nat.add_assoc]

theorem length_cutToTotal (total : Nat) (counts : List Nat) : (cutToTotal total counts).length = counts.length := by
  induction counts generalizing total with
  | nil => rfl
  | cons n rest ih =>
    unfold cutToTotal
    split <;> simp [ih]

theorem length_finalCounts (b : List Octet) : (finalCounts b).length = 4 := by
  rw [finalCounts, List.length_map, length_cutToTotal]; rfl

/-- A tile count is the one read, cut to what the ones before it leave of 64 and then to 16 (R207). -/
theorem tileCountsOf_get (b : List Octet) (c : Fin 4) : (tileCountsOf b).get c =
    min (min (field b (63 + c.val)) (64 - ((List.range c.val).map fun d => field b (63 + d)).sum)) 16 := by
  have read : readCounts b = (List.range 4).map fun d => field b (63 + d) := rfl
  have before : (readCounts b).take c.val = (List.range c.val).map fun d => field b (63 + d) := by
    rw [read, ← List.map_take, List.take_range, Nat.min_eq_left (by omega)]
  have own : (readCounts b).getD c.val 0 = field b (63 + c.val) := by
    rw [read, List.getD_eq_getElem _ _ (by simp)]
    simp
  have cut := cutToTotal_getD 0 (readCounts b) c.val
  rw [own, before, Nat.zero_add] at cut
  rw [tileCountsOf, Table.get_tabulate, finalCounts, ← cut]
  have short : c.val < (cutToTotal 0 (readCounts b)).length := by rw [length_cutToTotal]; exact c.isLt
  simp [List.getD_eq_getElem?_getD, short]

/-- A table of four entries holds those at its places. -/
theorem cells_of_four {α : Type} (t : Table α 4) : t.cells = [t.get 0, t.get 1, t.get 2, t.get 3] := by
  obtain ⟨cells, size⟩ := t
  match cells, size with
  | [_, _, _, _], _ => rfl

/-- The tile counts come to 64 at most (R207). -/
theorem sum_tileCountsOf_le (b : List Octet) : (tileCountsOf b).cells.sum ≤ 64 := by
  rw [cells_of_four]
  simp only [tileCountsOf_get, List.sum_cons, List.sum_nil, Fin.val_zero, Fin.val_one, Fin.val_two,
    show (3 : Fin 4).val = 3 from rfl, List.range_succ, List.range_zero, List.map_append, List.map_cons, List.map_nil,
    List.sum_append, List.nil_append, Nat.add_zero]
  omega

/-- A crossbar is valid when no two used chains are joined to one port (R115). -/
theorem crossbarValid_iff {counts : Table Nat 4} {entry : Fin 4 → Fin 4} : crossbarValid counts entry = true ↔
    ∀ c d, c ≠ d → 0 < counts.get c → 0 < counts.get d → entry c ≠ entry d := by
  simp [crossbarValid, Nat.pos_iff_ne_zero, or_iff_not_imp_left]

/-- The crossbar entry of a chain is a pair of bits of octet 67 (R216). -/
theorem crossbarEntry_val (b : List Octet) (c : Fin 4) : (crossbarEntry b c).val = field b 67 / 4 ^ c.val % 4 := by
  show (octetAt b 67).toNat >>> (2 * c.val) % 2 ^ 2 = _
  rw [Nat.shiftRight_eq_div_pow, Nat.pow_mul]
  rfl

theorem crossbarOf_of_valid {b : List Octet} (h : crossbarValid (tileCountsOf b) (crossbarEntry b) = true) (c : Fin 4) :
    (crossbarOf b).get c = crossbarEntry b c := by
  rw [crossbarOf, if_pos h, Table.get_tabulate]

theorem crossbarOf_of_invalid {b : List Octet} (h : ¬crossbarValid (tileCountsOf b) (crossbarEntry b) = true) (c : Fin 4) :
    (crossbarOf b).get c = c := by
  rw [crossbarOf, if_neg h, identityCrossbar, Table.get_tabulate, id]

/-- Used chains are joined to distinct ports, whether the crossbar was read so or is the identity (R115, R207). -/
theorem crossbarOf_injective {b : List Octet} {c d : Fin 4} (hc : 0 < (tileCountsOf b).get c) (hd : 0 < (tileCountsOf b).get d)
    (same : (crossbarOf b).get c = (crossbarOf b).get d) : c = d := by
  by_cases valid : crossbarValid (tileCountsOf b) (crossbarEntry b) = true
  · rw [crossbarOf_of_valid valid, crossbarOf_of_valid valid] at same
    by_contra ne
    exact crossbarValid_iff.mp valid c d ne hc hd same
  · rwa [crossbarOf_of_invalid valid, crossbarOf_of_invalid valid] at same

/-- The trim of a chain is a nibble of octet 68 or 69, the even chain's the more significant one (R216). -/
theorem trimField_toNat (b : List Octet) (c : Fin 4) : (trimField b c).toNat =
    if c.val % 2 = 0 then field b (68 + c.val / 2) / 16 else field b (68 + c.val / 2) % 16 := by
  have := field_lt b (68 + c.val / 2)
  unfold trimField
  rw [BitVec.extractLsb'_toNat]
  split
  · rw [Nat.shiftRight_eq_div_pow]
    exact Nat.mod_eq_of_lt (by show field b _ / 16 < 16; omega)
  · rfl

theorem blockOptions_chainsInRange (b : List Octet) : (blockOptions b).ChainsInRange := by
  refine ⟨fun c => ?_, sum_tileCountsOf_le b, fun c d => crossbarOf_injective, fun c => ?_, ⟨?_, ?_⟩, ⟨?_, ?_⟩, ?_⟩
  · show (tileCountsOf b).get c ≤ 16
    rw [tileCountsOf_get]
    exact Nat.min_le_right _ _
  · have nibble := (trimField b c).isLt
    show -7 ≤ (Table.tabulate 4 fun c => trimOf (trimField b c)).get c ∧ (Table.tabulate 4 fun c => trimOf (trimField b c)).get c ≤ 7
    rw [Table.get_tabulate, trimOf_eq]
    split <;> omega
  · exact Nat.le_max_left _ _
  · exact Nat.max_le.mpr ⟨by decide, Nat.le_of_lt_succ (field_lt b 70)⟩
  · exact Nat.le_max_left _ _
  · exact Nat.max_le.mpr ⟨by decide, Nat.le_of_lt_succ (field_lt b 71)⟩
  · exact Nat.le_of_lt_succ (field_lt b 72)

/-! ### Group 7 -/

theorem blockOptions_sensorsInRange (b : List Octet) : (blockOptions b).SensorsInRange := by
  refine ⟨Nat.min_le_right _ _, fun i => ?_, ?_, fun p => ?_, ?_, Nat.le_of_lt_succ (field_lt b 88), Nat.le_of_lt_succ (field_lt b 89)⟩
  · show (Table.tabulate 2 fun i : Fin 2 => constantOf b i).get i ≤ 1023
    rw [Table.get_tabulate]
    exact Nat.min_le_right _ _
  · simp only [blockOptions, gateCode, gateOf_codeOrDefault]
    split_ifs <;> simp
  · show (Table.tabulate 4 fun p : Fin 4 => nominalOf b p).get p ≤ 1023
    rw [Table.get_tabulate]
    exact Nat.min_le_right _ _
  · simp only [blockOptions, droopCode, droopOf_codeOrDefault]
    split <;> omega

/-! ### What is applied -/

theorem blockOptions_inRange (b : List Octet) : (blockOptions b).InRange :=
  ⟨blockOptions_settlingInRange b, validCurve_curveOf b, blockOptions_chainsInRange b, blockOptions_sensorsInRange b⟩

theorem defaultOptions_inRange : defaultOptions.InRange := by decide

/-- Every reading ends in the defaults or in a sound block's values (R203). -/
theorem appliedOf_cases (own : Addr) (block : Option (List Octet)) :
    (∃ detail, appliedOf own block = applyDefaults own detail) ∨ ∃ b, appliedOf own block = applyBlock own b := by
  unfold appliedOf
  split
  · exact .inl ⟨1, rfl⟩
  · next b =>
    split
    · exact .inr ⟨b, rfl⟩
    · exact .inl ⟨2, rfl⟩

section
variable (own : Addr) (block : Option (List Octet))

theorem appliedOf_inRange : (appliedOf own block).options.InRange := by
  rcases appliedOf_cases own block with ⟨detail, e⟩ | ⟨b, e⟩ <;> rw [e]
  · exact defaultOptions_inRange
  · exact blockOptions_inRange b

theorem appliedOf_windowsSound : WindowsSound (appliedOf own block).windows := by
  rcases appliedOf_cases own block with ⟨detail, e⟩ | ⟨b, e⟩ <;> rw [e]
  · exact windowsSound_testedWindows _ _ _
  · exact windowsSound_testedWindows _ _ _

/-- The own slot is that of the own address in the windows applied (R62). -/
theorem appliedOf_ownSlot : (appliedOf own block).ownSlot = translate (appliedOf own block).windows own := by
  rcases appliedOf_cases own block with ⟨detail, e⟩ | ⟨b, e⟩ <;> rw [e] <;> rfl

end

end Sys2Proof.Machine
end

section
/-! The values applied and the view windows: only a reset and the outcome of READING set them (R58 to R62, R200 to R211). -/

namespace Sys2Proof.Machine

open Sys2Proof

theorem KeepsLater.neighbours_eq {l : List Part} {s t : State} (h : KeepsLater l s t) (hl : Part.neighbours ∉ l) :
    t.neighbours = s.neighbours := by
  obtain ⟨n, h⟩ := h
  exact (h _ hl).trans (State.passHalves_neighbours n s)

/-! ### What start-up's own rows do to the windows and the values applied -/

section
variable (a : Applied) (octets : List Octet) (rs : List (FaultKind × Source × FaultAction)) (s : State)

theorem handOver_startUp : ((s.handOver a octets).requestAll rs).startUp =
    { s.startUp with phase := .powering, octets := octets, applied := some a.options,
                     waitEnd := some (s.timeBase + Config.settlingWait) } := by
  rw [State.requestAll_startUp]; rfl

theorem handOver_neighbours : ((s.handOver a octets).requestAll rs).neighbours =
    { s.neighbours with windows := a.windows, ownSlot := a.ownSlot } := by
  rw [State.requestAll_neighbours]; rfl

end

/-- The release gives the neighbour table its aging interval, and nothing else (R3, R210). -/
theorem release_neighbours (s : State) : s.release.neighbours =
    { s.neighbours with agingDue := some (s.timeBase + Config.quarterSecond) } := rfl

theorem State.startAll_neighbours (cs : List (Fin 4)) (s : State) :
    (cs.foldl (fun t c => t.startHighest c) s).neighbours = s.neighbours :=
  Keeps.foldl (l := [.chains, .responder]) (fun t c => keeps_startHighest c t) cs s .neighbours (by simp)

/-! ### The values stay sound -/

/-- The values are sound as long as the start-up unit's values, the windows and the own slot stand. -/
theorem ValuesSound.congr {s t : State} (h : ValuesSound s) (startUp : t.startUp = s.startUp)
    (windows : t.neighbours.windows = s.neighbours.windows) (ownSlot : t.neighbours.ownSlot = s.neighbours.ownSlot) : ValuesSound t := by
  unfold ValuesSound AppliedAfterReading State.ownAddress
  rw [startUp, windows, ownSlot]
  exact h

theorem ValuesSound.of_fixedKept {s t : State} (h : ValuesSound s) (k : FixedKept s t) : ValuesSound t := by
  obtain ⟨startUp, windows, ownSlot, -⟩ := k
  exact h.congr startUp windows ownSlot

/-- Before the outcome of READING only the windows bear on the values. -/
theorem ValuesSound.reading {s t : State} (h : ValuesSound s) (was : s.startUp.phase = .resetHeld ∨ s.startUp.phase = .reading)
    (applied : t.startUp.applied = s.startUp.applied) (windows : t.neighbours.windows = s.neighbours.windows) : ValuesSound t := by
  obtain ⟨-, sound, nothing, -⟩ := h
  have none : t.startUp.applied = none := applied.trans (nothing was)
  exact ⟨by simp [none], windows ▸ sound, fun _ => none, fun some => absurd none some⟩

/-- What the outcome of READING applies is sound (R203 to R209). -/
theorem ValuesSound.readOutcome (s : State) (block : Option (List Octet)) (octets : List Octet)
    (rs : List (FaultKind × Source × FaultAction)) :
    ValuesSound ((s.handOver (appliedOf s.ownAddress block) octets).requestAll rs) := by
  unfold ValuesSound AppliedAfterReading State.ownAddress
  rw [handOver_startUp, handOver_neighbours]
  refine ⟨?_, appliedOf_windowsSound _ _, by simp, fun _ => appliedOf_ownSlot _ _⟩
  rintro o applied
  obtain rfl := Option.some.inj applied
  exact appliedOf_inRange _ _

/-- The release leaves the values, the windows and the own slot (R210). -/
theorem ValuesSound.release {s : State} (h : ValuesSound s) : ValuesSound s.release := by
  obtain ⟨range, windows, -, ownSlot⟩ := h
  refine ⟨range, windows, ?_, ownSlot⟩
  rintro (h | h) <;> cases h

theorem valuesSound_exec {c : Instr} {s t : State} (inv : ValuesSound s) (h : exec c s = .next t) : ValuesSound t := by
  cases c with
  | resetAssert w => cases h; exact valuesSound_held _ _ _
  | resetEnd straps =>
    simp only [exec, execResetEnd, Host.Outcome.next.injEq] at h
    split at h <;> subst h
    · next held => exact inv.reading (.inl held) rfl rfl
    · exact inv
  | readAttempt response =>
    rcases exec_readAttempt h with rfl | ⟨reading, rfl⟩
    · exact inv
    · exact inv.reading (.inr reading) (by simp [State.attempt]) (by simp [State.attempt])
  | readOutcome octets =>
    rcases exec_readOutcome h with rfl | ⟨n, block, -, rfl⟩
    · exact inv
    · rw [← State.arriveAt_ownAddress s n]
      exact ValuesSound.readOutcome _ _ _ _
  | settlingWaitExpiry =>
    rcases exec_settlingWaitExpiry h with rfl | ⟨-, rfl⟩
    · exact inv
    · have arrived : ValuesSound (s.arriveAt (s.startUp.waitEnd.getD 0)) := inv.of_fixedKept (fixedKept_arriveAt _ _)
      exact arrived.release.congr (State.startAll_startUp _ _) (by rw [State.startAll_neighbours]) (by rw [State.startAll_neighbours])
  | frameReceived kind sender payload =>
    cases h
    exact inv.of_fixedKept (.ite (fun _ => fixedKept_hear _ _ _ _ (fixedKept_handOn _ _ _)) fun _ => fixedKept_discard _ _)
  | beaconReceived sender b => cases h; exact inv.of_fixedKept (fixedKept_hear _ _ _ _ (fixedKept_takeBeacon sender b))
  | neighbourAging =>
    cases h
    split
    · exact inv
    · exact (inv.of_fixedKept (fixedKept_arriveAt _ _)).congr rfl rfl rfl
  | _ =>
    have neighbours := (exec_keepsLater h).neighbours_eq (by simp [changes])
    exact inv.congr ((exec_keepsLater h).startUp_eq (by simp [changes])) (by rw [neighbours]) (by rw [neighbours])

/-- Settles O8: what the outcome of READING applies is sound, and no other row but a reset changes it. -/
theorem stepKeepsValuesSound : Obligations.StepKeepsValuesSound := by
  unfold Obligations.StepKeepsValuesSound
  exact keptByStep_of_exec (fun _ _ inv => inv) (fun s inv => inv.of_fixedKept (fixedKept_passHalves 2 s))
    fun c s t => valuesSound_exec

end Sys2Proof.Machine
end

section
/-! The neighbour table: the record that a beacon makes or updates, and that every record stays in range, in the slot of its sender
(R59, R63 to R71, R74). -/

namespace Sys2Proof.Machine

open Sys2Proof

/-! ### The record that a beacon makes -/

theorem Mode.ofCode_eq_some {n : Nat} {m : Mode} : Mode.ofCode n = some m ↔ m.code = n := by
  match n with
  | 0 | 1 | 2 | 3 => cases m <;> simp [Mode.ofCode, Mode.code]
  | k + 4 => cases m <;> simp [Mode.ofCode, Mode.code]

/-- A code above 3 names no mode (R68). -/
theorem Mode.ofCode_eq_none {n : Nat} : Mode.ofCode n = none ↔ 3 < n := by
  match n with
  | 0 | 1 | 2 | 3 => simp [Mode.ofCode]
  | k + 4 => simp [Mode.ofCode]

theorem neighbourOf_eq_none {sender : Addr} {b : BeaconWire} : neighbourOf sender b = none ↔ 3 < b.mode.toNat := by
  rw [neighbourOf, Option.map_eq_none_iff, Mode.ofCode_eq_none]

/-- The summary's severity bits, of which 0 is read as the least (R68). -/
theorem publishedSeverity_some {count code : Nat} {v : Severity} (small : code < 4) (h : publishedSeverity count code = some v) :
    v.code = max 1 code := by
  unfold publishedSeverity at h
  split at h
  · cases h
  · obtain rfl := Option.some.inj h
    interval_cases code <;> rfl

theorem publishedSeverity_eq_none {count code : Nat} : publishedSeverity count code = none ↔ count = 0 := by
  unfold publishedSeverity
  split <;> simp [*]

/-- The highest bit of an octet is set in the numbers from 128 on. -/
theorem getLsbD_seven (o : Octet) : o.getLsbD 7 = decide (128 ≤ o.toNat) := BitVec.msb_eq_decide o

/-- The fields of the record that a beacon makes, each corrected into its range (R66, R68). -/
theorem neighbourOf_eq_some {sender : Addr} {b : BeaconWire} {n : Neighbour} (h : neighbourOf sender b = some n) :
    n.sender = sender ∧ n.mode.code = b.mode.toNat ∧ n.yOut = min b.yOut.toNat 511 ∧
      n.ambient = (if b.ambient.toNat ≤ 671 then some b.ambient.toNat else none) ∧
      n.cap = (if b.capRemaining.toNat = 0 then none else some (min b.capLevel.toNat 511, min b.capRemaining.toNat 14400)) ∧
      n.activeCount = min b.activeCount.toNat 24 ∧ (n.severity = none ↔ b.activeCount.toNat = 0) ∧
      (∀ v, n.severity = some v → v.code = max 1 (b.summary.toNat % 4)) ∧
      n.overflow = decide (128 ≤ b.summary.toNat) ∧ n.seq = b.seq.toNat ∧ n.missed = 0 ∧ n.age = 0 ∧ n.freshness = .fresh := by
  obtain ⟨mode, code, rfl⟩ := Option.map_eq_some_iff.mp h
  have low : (b.summary.extractLsb' 0 2).toNat = b.summary.toNat % 4 := by simp [BitVec.extractLsb'_toNat]
  refine ⟨rfl, Mode.ofCode_eq_some.mp code, rfl, rfl, rfl, rfl, ?_, fun v e => ?_, getLsbD_seven _, rfl, rfl, rfl, rfl⟩
  · rw [publishedSeverity_eq_none]
    omega
  · rw [← low]
    exact publishedSeverity_some (BitVec.isLt _) e

/-- Only the missed-beacon count of a record that stands bears on the one that is put in its place (R66, R67). -/
theorem admitted_eq (old : Option Neighbour) (new : Neighbour) : admitted old new = { new with missed := (admitted old new).missed } := by
  cases old <;> rfl

/-- The gap in the sequence numbers is added to the missed-beacon count (R67). -/
theorem admitted_missed (o new : Neighbour) :
    (admitted (some o) new).missed = min (o.missed + (new.seq + 255 - o.seq % 256) % 256) 255 := rfl

/-! ### A beacon taken -/

/-- A beacon of the own address, one that no window admits, and one whose mode code names no mode, change nothing (R65). -/
theorem State.takeBeacon_ignored {sender : Addr} {b : BeaconWire} {s : State}
    (h : sender = s.ownAddress ∨ translate s.neighbours.windows sender = none ∨ 3 < b.mode.toNat) : s.takeBeacon sender b = s := by
  unfold State.takeBeacon
  split
  · rfl
  · next other =>
    split
    · next i n slot made =>
      rcases h with own | unseen | mode
      · exact absurd own other
      · rw [unseen] at slot; cases slot
      · rw [neighbourOf_eq_none.mpr mode] at made; cases made
    · rfl

/-- Any other beacon puts the record that it makes into the slot of its sender (R65 to R67). -/
theorem State.takeBeacon_admitted {sender : Addr} {b : BeaconWire} {s : State} {i : Fin 32} {n : Neighbour}
    (other : sender ≠ s.ownAddress) (slot : translate s.neighbours.windows sender = some i) (made : neighbourOf sender b = some n) :
    s.takeBeacon sender b = s.setSlot i (some (admitted (s.neighbours.slots.get i) n)) := by
  unfold State.takeBeacon
  rw [if_neg other, slot, made]

/-- Everything that a beacon can do: nothing, or to put a record into the slot of its sender. -/
theorem State.takeBeacon_cases (sender : Addr) (b : BeaconWire) (s : State) : s.takeBeacon sender b = s ∨
    ∃ i n, sender ≠ s.ownAddress ∧ translate s.neighbours.windows sender = some i ∧ neighbourOf sender b = some n ∧
      s.takeBeacon sender b = s.setSlot i (some (admitted (s.neighbours.slots.get i) n)) := by
  by_cases other : sender = s.ownAddress
  · exact .inl (State.takeBeacon_ignored (.inl other))
  cases slot : translate s.neighbours.windows sender with
  | none => exact .inl (State.takeBeacon_ignored (.inr (.inl slot)))
  | some i =>
    cases made : neighbourOf sender b with
    | none => exact .inl (State.takeBeacon_ignored (.inr (.inr (neighbourOf_eq_none.mp made))))
    | some n => exact .inr ⟨i, n, other, rfl, rfl, State.takeBeacon_admitted other slot made⟩

/-- BEACON_RECEIVED of a frame that is heard and not held back (R42 to R44). -/
theorem exec_beaconReceived {sender : Addr} {b : BeaconWire} {s u : State}
    (heard : s.Hears (Frame.octets ⟨.routine, sender, .beacon, beaconOctets b⟩) u) (other : s.NotHeldBack sender) :
    exec (.beaconReceived sender b) s = .next (State.takeBeacon sender b { u with line := s.line.afterGood }) := by
  have good := Frame.octets_complete (f := ⟨.routine, sender, .beacon, beaconOctets b⟩) (show 12 ≤ 24 by decide)
  rw [← heard.countGood_eq, ← State.hear_other heard good other 1 (State.takeBeacon sender b)]
  rfl

/-- Settles O41: the slot that a beacon takes, the fields of its record, and the count of those missed. -/
theorem beaconAdmitted : Obligations.BeaconAdmitted := by
  unfold Obligations.BeaconAdmitted
  intro sender b s u heard unheld
  have neighbours : u.neighbours = s.neighbours := heard.keeps .neighbours (by simp)
  have address : State.ownAddress { u with line := s.line.afterGood } = s.ownAddress := heard.ownAddress_eq
  have counted : Keeps [.line, .neighbours] u { u with line := s.line.afterGood } := (keeps_setLine _ u).mono (by simp)
  refine ⟨_, exec_beaconReceived heard unheld, counted.trans ((keeps_takeBeacon _ _ _).mono (by simp)),
    keeps_takeBeacon sender b _ .line (by simp), fun ignored => ?_, fun i other slot mode => ?_⟩
  · rw [State.takeBeacon_ignored (by rw [address, neighbours]; exact ignored)]
    exact neighbours
  · obtain ⟨n, made⟩ := Option.ne_none_iff_exists'.mp (mt neighbourOf_eq_none.mp (Nat.not_lt.mpr mode))
    obtain ⟨from_, code, yOut, ambient, cap, active, severity, summary, overflow, seq, missed, age, fresh⟩ := neighbourOf_eq_some made
    refine ⟨admitted (s.neighbours.slots.get i) n, ?_, ?_⟩
    · rw [State.takeBeacon_admitted (by rwa [address]) (by rwa [neighbours]) made, State.setSlot_neighbours, neighbours]
    · rw [admitted_eq]
      refine ⟨from_, code, yOut, ambient, cap, active, ?_, summary, overflow, seq, age, fresh,
        fun empty => ?_, fun o filled known => ?_⟩
      · rw [Option.isNone_iff_eq_none]
        exact severity
      · rw [empty]
        exact missed
      · rw [filled, admitted_missed, seq, Nat.mod_eq_of_lt (Nat.lt_succ_of_le known)]

/-! ### The records stay sound -/

/-- The eviction limit is not 0 (R71). -/
theorem NeighboursSound.evict_pos {s : State} (h : NeighboursSound s) : 0 < s.options.evictSeconds := by
  obtain ⟨limit, -⟩ := h
  unfold State.options
  cases applied : s.startUp.applied with
  | none => decide
  | some o => exact limit o applied

theorem NeighboursSound.congr {s t : State} (h : NeighboursSound s) (startUp : t.startUp = s.startUp)
    (windows : t.neighbours.windows = s.neighbours.windows) (slots : t.neighbours.slots = s.neighbours.slots) : NeighboursSound t := by
  unfold NeighboursSound State.options State.ownAddress
  rw [startUp, windows, slots]
  exact h

/-- A row that names neither the start-up unit nor the neighbour table. -/
theorem NeighboursSound.later {l : List Part} {s t : State} (h : NeighboursSound s) (k : KeepsLater l s t)
    (hl : Part.startUp ∉ l ∧ Part.neighbours ∉ l) : NeighboursSound t := by
  have neighbours := k.neighbours_eq hl.2
  exact h.congr (k.startUp_eq hl.1) (by rw [neighbours]) (by rw [neighbours])

/-- A part that does not run holds no record, and start-up's rows leave it so (R74). -/
theorem NeighboursSound.of_empty {t : State} (limit : ∀ o, t.startUp.applied = some o → 0 < o.evictSeconds)
    (empty : ∀ i, t.neighbours.slots.get i = none) : NeighboursSound t :=
  ⟨limit, fun _ => empty, fun i n filled => by rw [empty i] at filled; cases filled⟩

theorem NeighboursSound.startUp {s t : State} (h : NeighboursSound s) (idle : s.startUp.phase ≠ .running)
    (applied : t.startUp.applied = s.startUp.applied) (slots : t.neighbours.slots = s.neighbours.slots) : NeighboursSound t := by
  obtain ⟨limit, empty, -⟩ := h
  exact .of_empty (applied ▸ limit) (slots ▸ empty idle)

/-- The record that a beacon puts into a slot is in range: its values are corrected, and its age is 0 (R64, R66 to R68). -/
theorem Neighbour.sound_admitted {o : Options} {sender : Addr} {b : BeaconWire} {n : Neighbour} (limit : 0 < o.evictSeconds)
    (old : Option Neighbour) (made : neighbourOf sender b = some n) : (admitted old n).Sound o := by
  obtain ⟨-, -, yOut, ambient, cap, active, severity, -, -, seq, missed, age, fresh⟩ := neighbourOf_eq_some made
  have few : (admitted old n).missed ≤ 255 := by
    cases old with
    | none => exact missed.trans_le (Nat.zero_le _)
    | some o => exact Nat.min_le_right _ _
  rw [admitted_eq]
  refine ⟨yOut.trans_le (Nat.min_le_right _ _), fun a e => ?_, fun k e => ?_, active.trans_le (Nat.min_le_right _ _), ?_,
    seq.trans_le (Nat.le_of_lt_succ b.seq.isLt), few, ?_, ?_⟩
  · simp only [ambient] at e
    split at e <;> cases e
    assumption
  · simp only [cap] at e
    split at e <;> cases e
    omega
  · simp only [severity, active]
    omega
  · simp only [age]
    omega
  · simp [fresh, age]

theorem NeighboursSound.takeBeacon {s : State} (h : NeighboursSound s) (run : s.running = true) (sender : Addr) (b : BeaconWire) :
    NeighboursSound (s.takeBeacon sender b) := by
  rcases State.takeBeacon_cases sender b s with e | ⟨i, n, other, slot, made, e⟩ <;> rw [e]
  · exact h
  · have limit := h.evict_pos
    obtain ⟨applied, -, sound⟩ := h
    refine ⟨applied, fun idle => absurd (by simpa [State.running] using run) idle, fun j m filled => ?_⟩
    rw [State.setSlot_neighbours, Table.get_set] at filled
    split at filled
    · next here =>
      subst here
      obtain rfl := Option.some.inj filled
      obtain ⟨from_, -⟩ := neighbourOf_eq_some made
      have sender_eq : (admitted (s.neighbours.slots.get j) n).sender = sender := by rw [admitted_eq]; exact from_
      rw [sender_eq]
      exact ⟨Neighbour.sound_admitted limit _ made, slot, other⟩
    · exact sound j m filled

/-- A record that ages stays in range, and is removed before its age reaches the limit (R69 to R71). -/
theorem Neighbour.Sound.aged {o : Options} {n m : Neighbour} (h : n.Sound o) (e : n.aged o = some m) :
    m.Sound o ∧ m.sender = n.sender := by
  obtain ⟨yOut, ambient, cap, active, severity, seq, missed, -, -⟩ := h
  rw [Neighbour.aged_eq] at e
  split at e
  · next young =>
    obtain rfl := Option.some.inj e
    refine ⟨⟨yOut, ambient, cap, active, severity, seq, missed, young, ?_⟩, rfl⟩
    split <;> simp [*]
  · cases e

theorem NeighboursSound.aging {s : State} (h : NeighboursSound s) (due : Option Nat) :
    NeighboursSound { s with neighbours := { s.neighbours with
      slots := s.neighbours.slots.map fun n => n.bind (Neighbour.aged s.options), agingDue := due } } := by
  obtain ⟨limit, empty, sound⟩ := h
  refine ⟨limit, fun idle i => ?_, fun i m filled => ?_⟩
  · rw [Table.get_map, empty idle i]
    rfl
  · rw [Table.get_map] at filled
    obtain ⟨n, was, aged⟩ := Option.bind_eq_some_iff.mp filled
    obtain ⟨range, slot, other⟩ := sound i n was
    obtain ⟨range, same⟩ := range.aged aged
    rw [same]
    exact ⟨range, slot, other⟩

theorem NeighboursSound.handOn {s : State} (h : NeighboursSound s) (run : s.running = true) (kind : BitVec 4) (sender : Addr)
    (payload : List Octet) : NeighboursSound (s.handOn kind sender payload) := by
  unfold State.handOn
  split
  · split
    · exact h.takeBeacon run _ _
    · exact h
  · split
    · exact h.later (keeps_takeCap _ _ _ _).later (by simp)
    · exact h
  · split
    · split
      · exact h.later (keeps_answer _ _).later (by simp)
      · exact h
    · exact h
  · exact h

/-- A frame heard bears on the records as what it is handed on to does, and only a part that runs hears one. -/
theorem NeighboursSound.hear {s : State} (h : NeighboursSound s) (octets : List Octet) (kind : BitVec 4) (sender : Addr)
    {take : State → State} (taken : ∀ t, NeighboursSound t → t.running = true → NeighboursSound (take t)) :
    NeighboursSound (s.hear octets kind sender take) := by
  cases run : s.running with
  | false => rw [State.hear_of_not_running run]; exact h
  | true =>
    rcases State.hear_cases octets kind sender take s with ⟨-, e⟩ | ⟨w, -, e⟩
    · rw [e]; exact h
    · have counted : NeighboursSound (s.arriveWith w).countGood := h.congr (by simp) (by simp) (by simp)
      rcases e with ⟨-, -, e⟩ | ⟨-, e⟩ <;> rw [e]
      · exact counted.congr rfl rfl rfl
      · exact taken _ counted (by simpa [State.running] using run)

theorem neighboursSound_exec {c : Instr} {s t : State} (inv : NeighboursSound s) (h : exec c s = .next t) : NeighboursSound t := by
  cases c with
  | resetAssert w => cases h; exact neighboursSound_held _ _ _
  | resetEnd straps =>
    simp only [exec, execResetEnd, Host.Outcome.next.injEq] at h
    split at h <;> subst h
    · next held => exact inv.startUp (by simp [held]) rfl rfl
    · exact inv
  | readAttempt response =>
    rcases exec_readAttempt h with rfl | ⟨reading, rfl⟩
    · exact inv
    · exact inv.startUp (by simp [reading]) (by simp [State.attempt]) (by simp [State.attempt])
  | readOutcome octets =>
    rcases exec_readOutcome h with rfl | ⟨n, block, reading, rfl⟩
    · exact inv
    · obtain ⟨-, empty, -⟩ := inv
      refine .of_empty (fun o applied => ?_) fun i => ?_
      · rw [handOver_startUp] at applied
        obtain rfl := Option.some.inj applied
        obtain ⟨⟨-, -, -, -, -, -, -, -, -, -, evict, -⟩, -⟩ := appliedOf_inRange s.ownAddress block
        omega
      · rw [handOver_neighbours, State.arriveAt_neighbours]
        exact empty (by simp [reading]) i
  | settlingWaitExpiry =>
    rcases exec_settlingWaitExpiry h with rfl | ⟨powering, rfl⟩
    · exact inv
    · refine inv.startUp (by simp [powering]) ?_ ?_
      · rw [State.startAll_startUp]
        simp [State.release]
      · rw [State.startAll_neighbours, release_neighbours, State.arriveAt_neighbours]
  | frameReceived kind sender payload =>
    cases h
    split
    · exact inv.hear _ _ _ fun t sound run => sound.handOn run _ _ _
    · exact inv.later (keepsLater_discard _ s) (by simp)
  | beaconReceived sender b => cases h; exact inv.hear _ _ _ fun t sound run => sound.takeBeacon run sender b
  | neighbourAging =>
    cases h
    split
    · exact inv
    · next d due =>
      have arrived : NeighboursSound (s.arriveAt d) := inv.congr (by simp) (by simp) (by simp)
      exact arrived.aging _
  | _ => exact inv.later (exec_keepsLater h) (by simp [changes])

/-- Settles O11: a beacon puts a corrected record into the slot of its sender, aging keeps it in range or removes it, and start-up's rows
find no record. -/
theorem stepKeepsNeighboursSound : Obligations.StepKeepsNeighboursSound := by
  unfold Obligations.StepKeepsNeighboursSound
  exact keptByStep_of_exec (fun _ _ inv => inv) (fun s inv => inv.congr (by simp) (by simp) (by simp))
    fun c s t => neighboursSound_exec

end Sys2Proof.Machine
end

section
/-! What start-up applies from an option block, field by field, and the raises of its corrections (R62, R203 to R209, R216). -/

namespace Sys2Proof.Machine

open Sys2Proof

/-! ### The raises -/

theorem mem_countRaise {group changes : Nat} {r : Nat × Nat} :
    r ∈ countRaise group changes ↔ 0 < changes ∧ r = (group, changes) := by
  unfold countRaise
  split <;> simp [*, Nat.pos_iff_ne_zero]

theorem mem_ownSlotRaise {slot : Option (Fin 32)} {r : Nat × Nat} : r ∈ ownSlotRaise slot ↔ slot = none ∧ r = (2, 3) := by
  cases slot <;> simp [ownSlotRaise]

theorem length_countRaise_le (group changes : Nat) : (countRaise group changes).length ≤ 1 := by
  unfold countRaise
  split <;> simp

theorem length_ownSlotRaise_le (slot : Option (Fin 32)) : (ownSlotRaise slot).length ≤ 1 := by cases slot <;> simp [ownSlotRaise]

theorem length_faultRaise_le (group : Nat) (fault : Option Nat) : (faultRaise group fault).length ≤ 1 := by
  cases fault <;> simp [faultRaise]

/-- The raises of a group's test have the group's number. -/
theorem filter_faultRaise (p : Nat → Bool) (group : Nat) (fault : Option Nat) :
    (faultRaise group fault).filter (fun r => p r.1) = if p group then faultRaise group fault else [] := by
  cases fault <;> cases h : p group <;> simp [faultRaise, h]

/-- The faults of the block's windows. -/
def blockWindowFault (b : List Octet) (k : Fin 3) : Option Nat := windowFaultAt (blockWindow b 0) (blockWindow b 1) (blockWindow b 2) k

/-- The raises of a block, group by group; that of an absent own slot is of group 2 (R205, R209). -/
theorem applyBlock_raises (own : Addr) (b : List Octet) : (applyBlock own b).raises =
    countRaise 1 (groupOneChanges b) ++ (faultRaise 2 (blockWindowFault b 0) ++ ownSlotRaise (applyBlock own b).ownSlot) ++
      faultRaise 3 (blockWindowFault b 1) ++ faultRaise 4 (blockWindowFault b 2) ++
      faultRaise 5 (curveFault (field b 30) (blockCurve b)) ++ countRaise 6 (groupSixChanges b) ++ countRaise 7 (groupSevenChanges b) := by
  have found : windowRaises (blockWindow b 0) (blockWindow b 1) (blockWindow b 2) = faultRaise 2 (blockWindowFault b 0) ++
    faultRaise 3 (blockWindowFault b 1) ++ faultRaise 4 (blockWindowFault b 2) := rfl
  have second := filter_faultRaise fun group => decide (group = 2)
  have others := filter_faultRaise fun group => decide (group ≠ 2)
  simp only [applyBlock, found, List.filter_append, second, others]
  simp

/-- A raise of a block, by its group. -/
theorem mem_applyBlock_raises {own : Addr} {b : List Octet} {r : Nat × Nat} : r ∈ (applyBlock own b).raises ↔
    (0 < groupOneChanges b ∧ r = (1, groupOneChanges b)) ∨
      r ∈ windowRaises (blockWindow b 0) (blockWindow b 1) (blockWindow b 2) ∨
      ((applyBlock own b).ownSlot = none ∧ r = (2, 3)) ∨
      (∃ d, curveFault (field b 30) (blockCurve b) = some d ∧ r = (5, d)) ∨
      (0 < groupSixChanges b ∧ r = (6, groupSixChanges b)) ∨ (0 < groupSevenChanges b ∧ r = (7, groupSevenChanges b)) := by
  rw [← mem_countRaise, ← mem_countRaise, ← mem_countRaise, ← mem_ownSlotRaise, ← mem_faultRaise]
  by_cases group : r.1 = 2 <;> simp [applyBlock, group, or_left_comm]

section
variable {own : Addr} {b : List Octet} {d : Nat}

/-- The windows' raises are of the groups 2 to 4. -/
theorem not_mem_windowRaises {group : Nat} (h : group < 2 ∨ 4 < group) (w0 w1 w2 : ViewWindow) :
    (group, d) ∉ windowRaises w0 w1 w2 := fun mem => by
  have := windowRaises_mem w0 w1 w2 mem
  simp only [Prod.mk.injEq] at this
  omega

theorem pos_and_eq_iff {n : Nat} : (0 < n ∧ d = n) ↔ 0 < d ∧ d = n := and_congr_left fun e => by rw [e]

/-- The raises of group 1 count the changed fields (R204). -/
theorem raise_one_iff : (1, d) ∈ (applyBlock own b).raises ↔ 0 < d ∧ d = groupOneChanges b := by
  simpa [mem_applyBlock_raises, not_mem_windowRaises] using pos_and_eq_iff

/-- The raise of group 5 has the number of the first test that failed (R206). -/
theorem raise_five_iff : (5, d) ∈ (applyBlock own b).raises ↔ curveFault (field b 30) (blockCurve b) = some d := by
  simp [mem_applyBlock_raises, not_mem_windowRaises]

/-- The raises of group 6 count the changed fields (R207). -/
theorem raise_six_iff : (6, d) ∈ (applyBlock own b).raises ↔ 0 < d ∧ d = groupSixChanges b := by
  simpa [mem_applyBlock_raises, not_mem_windowRaises] using pos_and_eq_iff

/-- The raises of group 7 count the changed fields (R208). -/
theorem raise_seven_iff : (7, d) ∈ (applyBlock own b).raises ↔ 0 < d ∧ d = groupSevenChanges b := by
  simpa [mem_applyBlock_raises, not_mem_windowRaises] using pos_and_eq_iff

/-- The raise of an absent own slot (R62); no test of a window has its detail. -/
theorem raise_ownSlot_iff : (2, 3) ∈ (applyBlock own b).raises ↔ (applyBlock own b).ownSlot = none := by
  have windows : (2, 3) ∉ windowRaises (blockWindow b 0) (blockWindow b 1) (blockWindow b 2) := fun mem => by
    simpa using windowRaises_mem _ _ _ mem
  simp [mem_applyBlock_raises, windows]

end

/-- There are at most eight raises (R209). -/
theorem length_applyBlock_raises_le (own : Addr) (b : List Octet) : (applyBlock own b).raises.length ≤ 8 := by
  have one := length_countRaise_le 1 (groupOneChanges b)
  have two := length_faultRaise_le 2 (blockWindowFault b 0)
  have slot := length_ownSlotRaise_le (applyBlock own b).ownSlot
  have three := length_faultRaise_le 3 (blockWindowFault b 1)
  have four := length_faultRaise_le 4 (blockWindowFault b 2)
  have five := length_faultRaise_le 5 (curveFault (field b 30) (blockCurve b))
  have six := length_countRaise_le 6 (groupSixChanges b)
  have seven := length_countRaise_le 7 (groupSevenChanges b)
  rw [applyBlock_raises]
  simp only [List.length_append]
  omega

/-- Two raises in their order: by group, and in group 2 the absent own slot after the test of window 0 (R205, R209). -/
def RaisedBefore (p q : Nat × Nat) : Prop := p.1 < q.1 ∨ (p = (2, 1) ∧ q = (2, 3))

/-- Raises in their order, all of them of groups below `group`. -/
def RaisedUpTo (group : Nat) (raises : List (Nat × Nat)) : Prop := raises.Pairwise RaisedBefore ∧ ∀ r ∈ raises, r.1 < group

/-- The raises of the next group follow. -/
theorem RaisedUpTo.append {group : Nat} {raises more : List (Nat × Nat)} (h : RaisedUpTo group raises)
    (order : more.Pairwise RaisedBefore) (next : ∀ r ∈ more, r.1 = group) : RaisedUpTo (group + 1) (raises ++ more) := by
  obtain ⟨before, below⟩ := h
  refine ⟨List.pairwise_append.mpr ⟨before, order, fun p hp q hq => .inl ?_⟩, fun r hr => ?_⟩
  · rw [next q hq]
    exact below p hp
  · rcases List.mem_append.mp hr with hr | hr
    · exact Nat.lt_succ_of_lt (below r hr)
    · exact Nat.lt_succ_of_le (next r hr).le

theorem RaisedUpTo.fault {group : Nat} {raises : List (Nat × Nat)} (h : RaisedUpTo group raises) (fault : Option Nat) :
    RaisedUpTo (group + 1) (raises ++ faultRaise group fault) := by
  refine h.append ?_ fun r mem => ?_
  · cases fault <;> simp [faultRaise]
  · obtain ⟨d, -, rfl⟩ := mem_faultRaise.mp mem
    rfl

theorem RaisedUpTo.count {group : Nat} {raises : List (Nat × Nat)} (h : RaisedUpTo group raises) (changes : Nat) :
    RaisedUpTo (group + 1) (raises ++ countRaise group changes) := by
  refine h.append ?_ fun r mem => ?_
  · unfold countRaise
    split <;> simp
  · obtain ⟨-, rfl⟩ := mem_countRaise.mp mem
    rfl

/-- The raises of a block stand in the order of their groups (R209). -/
theorem applyBlock_raises_ordered (own : Addr) (b : List Octet) : (applyBlock own b).raises.Pairwise RaisedBefore := by
  have first : RaisedUpTo 2 (countRaise 1 (groupOneChanges b)) := RaisedUpTo.count (raises := []) ⟨.nil, by simp⟩ _
  have second : RaisedUpTo 3 (countRaise 1 (groupOneChanges b) ++
      (faultRaise 2 (blockWindowFault b 0) ++ ownSlotRaise (applyBlock own b).ownSlot)) := by
    refine first.append (List.pairwise_append.mpr ⟨?_, ?_, fun p hp q hq => .inr ?_⟩) fun r mem => ?_
    · cases blockWindowFault b 0 <;> simp [faultRaise]
    · cases (applyBlock own b).ownSlot <;> simp [ownSlotRaise]
    · obtain ⟨d, fault, rfl⟩ := mem_faultRaise.mp hp
      obtain ⟨-, rfl⟩ := mem_ownSlotRaise.mp hq
      obtain rfl := windowFault_first_detail fault
      exact ⟨rfl, rfl⟩
    · rcases List.mem_append.mp mem with mem | mem
      · obtain ⟨d, -, rfl⟩ := mem_faultRaise.mp mem
        rfl
      · obtain ⟨-, rfl⟩ := mem_ownSlotRaise.mp mem
        rfl
  obtain ⟨ordered, -⟩ := ((((second.fault _).fault _).fault _).count _).count _
  rw [applyBlock_raises]
  exact ordered

/-! ### The counts of changed fields -/

theorem changedFields_cons (p : Nat × Nat) (pairs : List (Nat × Nat)) :
    changedFields (p :: pairs) = changedFields pairs + if p.1 ≠ p.2 then 1 else 0 := by
  simp [changedFields, List.countP_cons]

/-- The fields that were changed, counted by a filter. -/
theorem length_filter_changed (pairs : List (Nat × Nat)) : (pairs.filter fun p => p.1 ≠ p.2).length = changedFields pairs :=
  List.countP_eq_length_filter.symm

/-- A code field is changed when its code is above 3 (R204, R208). -/
theorem changedFields_code {default code : Nat} (h : default ≤ 3) (pairs : List (Nat × Nat)) :
    changedFields ((code, codeOrDefault default code) :: pairs) = (if code ≤ 3 then 0 else 1) + changedFields pairs := by
  rw [changedFields_cons, Nat.add_comm]
  simp only [codeOrDefault_changed h, ite_not]

theorem groupOneChanges_eq (b : List Octet) : groupOneChanges b = (if field b 0 ≤ 3 then 0 else 1) +
    changedFields [(field b 1, ownWeightOf b), (field b 2, radiusOf b), (field b 3, gradientOf b), (field b 4, slewUpOf b),
      (field b 5, slewDownOf b), (fieldTwo b 6, yPeakOf b), (fieldTwo b 8, yStartOf b), (fieldTwo b 10, yFallbackOf b),
      (field b 12, holdOf b), (field b 13, staleOf b), (field b 14, evictOf b)] := changedFields_code (by decide) _

theorem groupSevenChanges_eq (b : List Octet) : groupSevenChanges b =
    (if field b 78 ≤ 3 then 0 else 1) + (if field b 87 ≤ 3 then 0 else 1) +
    changedFields [(field b 73, sensorCountOf b), (fieldTwo b 74, constantOf b 0), (fieldTwo b 76, constantOf b 1),
      (fieldTwo b 79, nominalOf b 0), (fieldTwo b 81, nominalOf b 1), (fieldTwo b 83, nominalOf b 2),
      (fieldTwo b 85, nominalOf b 3)] := by
  simp only [groupSevenChanges, changedFields_cons, gateCode, droopCode,
    codeOrDefault_changed (show 1 ≤ 3 by decide), codeOrDefault_changed (show 2 ≤ 3 by decide), ite_not]
  ring

/-- The counts that were cut, counted by chain. -/
theorem changedFields_counts (b : List Octet) : changedFields ((readCounts b).zip (finalCounts b)) =
    ((List.finRange 4).filter fun c => (tileCountsOf b).get c ≠ field b (63 + c.val)).length := by
  have zipped : (readCounts b).zip (finalCounts b) = (List.finRange 4).map fun c => (field b (63 + c.val), (tileCountsOf b).get c) := by
    have cells : finalCounts b = (List.finRange 4).map fun c => (tileCountsOf b).get c := by
      refine List.ext_getElem (by simp [length_finalCounts]) fun k h _ => ?_
      simp [tileCountsOf, List.getElem?_eq_getElem h]
    rw [cells]
    rfl
  rw [zipped, changedFields, List.countP_map, List.countP_eq_length_filter]
  simp only [Function.comp_def, ne_comm]

theorem groupSixChanges_eq (b : List Octet) : groupSixChanges b =
    ((List.finRange 4).filter fun c => (tileCountsOf b).get c ≠ field b (63 + c.val)).length +
      (if field b 70 = 0 then 1 else 0) + (if field b 71 = 0 then 1 else 0) +
      (if crossbarValid (tileCountsOf b) (crossbarEntry b) then 0 else 1) := by
  have raised : ∀ n, n ≠ max 1 n ↔ n = 0 := fun n => by omega
  simp only [groupSixChanges, changedFields_counts, changedFields_cons, sweepOf, testOf, raised]
  simp only [changedFields, List.countP_nil]
  ring

/-! ### The values of a sound block -/

/-- Window w of the block (R205, R216). -/
theorem blockWindow_eq (b : List Octet) (w : Nat) : blockWindow b w =
    ⟨decide (128 ≤ field b (15 + 5 * w)), BitVec.ofNat 10 (fieldTwo b (16 + 5 * w)), BitVec.ofNat 10 (fieldTwo b (18 + 5 * w)),
      field b (15 + 5 * w) % 32⟩ := by
  rw [blockWindow, getLsbD_seven, BitVec.extractLsb'_toNat]
  rfl

/-- A crossbar that was read is valid when no two used chains' pairs of bits are the same (R115, R216). -/
theorem crossbarValid_block_iff (b : List Octet) : crossbarValid (tileCountsOf b) (crossbarEntry b) = true ↔
    ∀ c d : Fin 4, c ≠ d → 0 < (tileCountsOf b).get c → 0 < (tileCountsOf b).get d →
      field b 67 / 4 ^ c.val % 4 ≠ field b 67 / 4 ^ d.val % 4 := by
  simp only [crossbarValid_iff, ← crossbarEntry_val, ne_eq, Fin.val_inj]

/-- The raises of group 6: the fields that were changed, and the crossbar when it was (R207). -/
theorem raise_six_block_iff {own : Addr} {b : List Octet} {valid : Prop} {n : Nat} (d : Nat)
    (hv : valid ↔ crossbarValid (tileCountsOf b) (crossbarEntry b) = true)
    (hn : n = ((List.finRange 4).filter fun c => (tileCountsOf b).get c ≠ field b (63 + c.val)).length +
      (if field b 70 = 0 then 1 else 0) + (if field b 71 = 0 then 1 else 0)) :
    (6, d) ∈ (applyBlock own b).raises ↔ 0 < d ∧ ((valid ∧ d = n) ∨ (¬valid ∧ d = n + 1)) := by
  rw [raise_six_iff, groupSixChanges_eq, ← hn, hv]
  split <;> simp [*]

/-- The trim of a chain is a sign-magnitude nibble (R9, R216). -/
theorem blockOptions_trim (b : List Octet) (c : Fin 4) {nibble : Nat}
    (h : nibble = if c.val % 2 = 0 then field b (68 + c.val / 2) / 16 else field b (68 + c.val / 2) % 16) :
    (blockOptions b).trims.get c = if nibble < 8 then (nibble : Int) else 8 - (nibble : Int) := by
  rw [blockOptions, Table.get_tabulate, trimOf_eq, trimField_toNat, ← h]

theorem curveOf_of_none {b : List Octet} (h : ∀ d, 1 ≤ d → d ≤ 5 → ¬CurveFails b d) :
    curveOf b = (List.range (field b 30)).map fun k => (fieldTwo b (31 + 4 * k), fieldTwo b (33 + 4 * k)) := by
  have count := h 1 (by decide) (by decide)
  simp only [CurveFails, not_or, not_lt] at count
  rw [curveOf, curveFault_of_none h]
  exact take_blockCurve b count.2

theorem curveOf_of_fault {b : List Octet} {d : Nat} (h : curveFault (field b 30) (blockCurve b) = some d) :
    curveOf b = builtInCurve := by
  rw [curveOf, h]

/-- The curve and its raise: as read without one when no test fails, and otherwise the built-in curve and the number of the first test
that fails (R206). -/
theorem curve_applied (own : Addr) (b : List Octet) {fails : Nat → Prop}
    (h : ∀ d, 1 ≤ d → d ≤ 5 → (fails d ↔ CurveFails b d)) :
    ((∀ d, 1 ≤ d → d ≤ 5 → ¬fails d) → (∀ d, (5, d) ∉ (applyBlock own b).raises) ∧
      curveOf b = (List.range (field b 30)).map fun k => (fieldTwo b (31 + 4 * k), fieldTwo b (33 + 4 * k))) ∧
    ∀ d, 1 ≤ d → d ≤ 5 → fails d → (∀ e, 1 ≤ e → e < d → ¬fails e) →
      curveOf b = builtInCurve ∧ ∀ x, (5, x) ∈ (applyBlock own b).raises ↔ x = d := by
  refine ⟨fun none => ?_, fun d low high fault first => ?_⟩
  · have passes : ∀ d, 1 ≤ d → d ≤ 5 → ¬CurveFails b d := fun d low high => mt (h d low high).mpr (none d low high)
    refine ⟨fun d => ?_, curveOf_of_none passes⟩
    rw [raise_five_iff, curveFault_of_none passes]
    nofun
  · have found := curveFault_of_first low high ((h d low high).mp fault) fun e least below =>
      mt (h e least (by omega)).mpr (first e least below)
    refine ⟨curveOf_of_fault found, fun x => ?_⟩
    rw [raise_five_iff, found, Option.some.injEq, eq_comm]

/-- Settles O27: what is applied lies in range; without a sound block it is the defaults, and of a sound one each group's fields are read
and corrected, and its raise counts the corrections or names the test. -/
theorem appliedValuesInRange : Obligations.AppliedValuesInRange := by
  unfold Obligations.AppliedValuesInRange
  rintro own block _ _ rfl rfl
  refine ⟨appliedOf_inRange own block, appliedOf_windowsSound own block, appliedOf_ownSlot own block, ?_, ?_, ?_, ?_, ?_⟩
  · rcases appliedOf_cases own block with ⟨detail, e⟩ | ⟨b, e⟩ <;> rw [e]
    · exact (by decide : 1 ≤ 8)
    · exact length_applyBlock_raises_le own b
  · rintro rfl
    rfl
  · rintro b rfl length bad
    rw [appliedOf_bad own bad]
    rfl
  · rintro (rfl | ⟨b, rfl, bad⟩)
    · exact ⟨rfl, applyDefaults_ownSlot own 1⟩
    · rw [appliedOf_bad own bad]
      exact ⟨rfl, applyDefaults_ownSlot own 2⟩
  · rintro b f g rfl length sum isField isTwo
    obtain rfl : f = field b := funext isField
    obtain rfl : g = fieldTwo b := funext fun k => (isTwo k).trans (fieldTwo_eq b k).symm
    rw [appliedOf_sound own length sum]
    have octet := field_lt b
    refine ⟨⟨lineRateOf_codeOrDefault _, clamp_eq (by decide) _, clamp_eq (by decide) _, clamp_eq (by decide) _,
        clamp_eq (by decide) _, clamp_eq (by decide) _, clamp_eq (by decide) _, clamp_zero _ _, clamp_zero _ _,
        clamp_octet (by decide) (octet _), clamp_eq (by decide) _, clamp_octet (staleOf_lt b) (octet _)⟩,
      fun w _ => blockWindow_eq b w, tileCountsOf_get b, ?_, fun c nibble => blockOptions_trim b c, ⟨rfl, rfl, rfl⟩,
      ⟨rfl, ?_, gateOf_codeOrDefault _, ?_, droopOf_codeOrDefault _, rfl, rfl⟩,
      ?_, ?_, ?_, raise_ownSlot_iff, applyBlock_raises_ordered own b⟩
    · intro valid isValid
      have hv := isValid.trans (crossbarValid_block_iff b).symm
      refine ⟨fun v c => ?_, fun v c => crossbarOf_of_invalid (mt hv.mpr v) c, fun n hn d => raise_six_block_iff d hv hn⟩
      rw [← crossbarEntry_val, ← crossbarOf_of_valid (hv.mp v)]
      rfl
    · intro i
      exact Table.get_tabulate _ i
    · intro p
      exact Table.get_tabulate _ p
    · intro fails one two three four five
      refine curve_applied own b fun d low high => ?_
      interval_cases d
      exacts [one, two, three, four, five]
    · rintro n d rfl
      rw [raise_one_iff, groupOneChanges_eq, length_filter_changed]
      rfl
    · rintro n d rfl
      rw [raise_seven_iff, groupSevenChanges_eq, length_filter_changed]
      rfl

end Sys2Proof.Machine
end

section
/-! The curve: Y_ceil interpolates within a segment, stays between the ends of a valid curve, and does not decrease (R81, R82). -/

namespace Sys2Proof.Machine

open Sys2Proof

/-- A breakpoint that may stand after another on a valid curve (R81). -/
def Follows (p q : Nat × Nat) : Prop := p.1 < q.1 ∧ p.2 ≤ q.2

/-- The interpolated value of the segment from `p` to `q`, rounded down (R81). -/
def segmentAt (p q : Nat × Nat) (pool : Nat) : Nat := p.2 + (pool - p.1) * (q.2 - p.2) / (q.1 - p.1)

/-! ### Within a segment -/

section
variable {p q : Nat × Nat} {pool : Nat}

theorem segmentAt_start (h : pool ≤ p.1) : segmentAt p q pool = p.2 := by
  simp [segmentAt, Nat.sub_eq_zero_of_le h]

theorem le_segmentAt (p q : Nat × Nat) (pool : Nat) : p.2 ≤ segmentAt p q pool := Nat.le_add_right _ _

/-- The share of a segment's rise that is added is at most the whole of it. -/
theorem segmentAt_le (h : pool ≤ q.1) : segmentAt p q pool ≤ max p.2 q.2 := by
  have share : (pool - p.1) * (q.2 - p.2) / (q.1 - p.1) ≤ q.2 - p.2 :=
    Nat.div_le_of_le_mul (Nat.mul_le_mul_right _ (by omega))
  unfold segmentAt
  omega

theorem segmentAt_mono {pool' : Nat} (h : pool ≤ pool') : segmentAt p q pool ≤ segmentAt p q pool' :=
  Nat.add_le_add_left (Nat.div_le_div_right (Nat.mul_le_mul_right _ (by omega))) _

end

/-! ### Over the whole curve -/

section
variable {p q : Nat × Nat} {rest : List (Nat × Nat)} {pool : Nat}

/-- The first segment gives the value below its end, and the breakpoints after it the value from there on. -/
theorem ceilingAt_cons_cons (h : p.1 < q.1) :
    ceilingAt (p :: q :: rest) pool = if pool < q.1 then segmentAt p q pool else ceilingAt (q :: rest) pool := by
  rw [ceilingAt]
  by_cases start : pool ≤ p.1
  · rw [if_pos start, if_pos (by omega), segmentAt_start start]
  · rw [if_neg start]; rfl

/-- No value is above the highest breakpoint, whatever the curve. -/
theorem ceilingAt_le {curve : List (Nat × Nat)} {y : Nat} (h : ∀ p ∈ curve, p.2 ≤ y) (pool : Nat) : ceilingAt curve pool ≤ y := by
  induction curve with
  | nil => exact Nat.zero_le _
  | cons p rest ih =>
    obtain ⟨first, others⟩ := List.forall_mem_cons.mp h
    cases rest with
    | nil => exact first
    | cons q rest =>
      rw [ceilingAt]
      split
      · exact first
      · split
        · next below => exact (segmentAt_le below.le).trans (max_le first (others q (by simp)))
        · exact ih others

/-- Up to the first breakpoint the value is that of the first (R81). -/
theorem ceilingAt_before (h : pool ≤ p.1) : ceilingAt (p :: rest) pool = p.2 := by
  cases rest with
  | nil => rfl
  | cons q rest => rw [ceilingAt, if_pos h]

theorem le_ceilingAt (rises : (p :: rest).Pairwise Follows) (pool : Nat) : p.2 ≤ ceilingAt (p :: rest) pool := by
  induction rest generalizing p with
  | nil => exact Nat.le_refl _
  | cons q rest ih =>
    obtain ⟨after, others⟩ := List.pairwise_cons.mp rises
    obtain ⟨right, up⟩ := after q (by simp)
    rw [ceilingAt_cons_cons right]
    split
    · exact le_segmentAt p q pool
    · exact up.trans (ih others)

/-- From a breakpoint on, those before it have no bearing on the value. -/
theorem ceilingAt_append {before : List (Nat × Nat)} (rises : (before ++ p :: rest).Pairwise Follows) (h : p.1 ≤ pool) :
    ceilingAt (before ++ p :: rest) pool = ceilingAt (p :: rest) pool := by
  induction before with
  | nil => rfl
  | cons b before ih =>
    obtain ⟨after, others⟩ := List.pairwise_cons.mp rises
    rw [← ih others]
    cases before with
    | nil => exact (ceilingAt_cons_cons (after p (by simp)).1).trans (if_neg (Nat.not_lt.mpr h))
    | cons c before =>
      have right : c.1 < p.1 := ((List.pairwise_cons.mp others).1 p (by simp)).1
      exact (ceilingAt_cons_cons (after c (by simp)).1).trans (if_neg (by omega))

/-- A higher ambient code gives no lower ceiling. -/
theorem ceilingAt_mono {curve : List (Nat × Nat)} (rises : curve.Pairwise Follows) {pool' : Nat} (h : pool ≤ pool') :
    ceilingAt curve pool ≤ ceilingAt curve pool' := by
  induction curve with
  | nil => exact Nat.le_refl _
  | cons p rest ih =>
    obtain ⟨after, others⟩ := List.pairwise_cons.mp rises
    cases rest with
    | nil => exact Nat.le_refl _
    | cons q rest =>
      obtain ⟨right, up⟩ := after q (by simp)
      rw [ceilingAt_cons_cons right, ceilingAt_cons_cons right]
      by_cases low : pool < q.1
      · rw [if_pos low]
        split
        · exact segmentAt_mono h
        · calc segmentAt p q pool
            _ ≤ max p.2 q.2 := segmentAt_le low.le
            _ = q.2 := max_eq_right up
            _ ≤ ceilingAt (q :: rest) pool' := le_ceilingAt others pool'
      · rw [if_neg low, if_neg (by omega)]
        exact ih others

end

/-- Settles O21: the curve is taken apart at a breakpoint, from which on those before it have no bearing on the value. -/
theorem ceilingFollowsCurve : Obligations.CeilingFollowsCurve := by
  unfold Obligations.CeilingFollowsCurve
  refine ⟨validCurve_builtInCurve, fun curve first last ⟨_, _, rises⟩ head final pool => ?_⟩
  change curve.Pairwise Follows at rises
  obtain ⟨rest, rfl⟩ := List.head?_eq_some_iff.mp head
  obtain ⟨before, ends⟩ := List.getLast?_eq_some_iff.mp final
  have top : ∀ p ∈ first :: rest, p.2 ≤ last.2 := fun p mem => by
    rw [ends] at mem rises
    obtain ⟨-, -, below⟩ := List.pairwise_append.mp rises
    rcases List.mem_append.mp mem with mem | mem
    · exact (below p mem last (by simp)).2
    · rw [List.mem_singleton.mp mem]
  refine ⟨ceilingAt_before, fun beyond => ?_, fun k inside low high => ?_, ⟨le_ceilingAt rises pool, ceilingAt_le top pool⟩,
    fun pool' h => ceilingAt_mono rises h⟩
  · rw [ends] at rises ⊢
    exact ceilingAt_append rises beyond
  · generalize first :: rest = curve at rises inside low high
    have apart : curve = curve.take k ++ curve[k] :: curve[k + 1] :: curve.drop (k + 2) := by simp
    rw [apart] at rises
    have right : curve[k].1 < curve[k + 1].1 := low.trans_lt high
    calc ceilingAt curve pool
      _ = ceilingAt (curve[k] :: curve[k + 1] :: curve.drop (k + 2)) pool := by
        conv_lhs => rw [apart]
        exact ceilingAt_append rises low
      _ = segmentAt curve[k] curve[k + 1] pool := by rw [ceilingAt_cons_cons right, if_pos high]

end Sys2Proof.Machine
end

section
/-! The pool: the slots whose records count for it, how often each code stands in it, and its lower median (R79, R80). -/

namespace Sys2Proof.Machine

open Sys2Proof

/-! ### The slots within reach -/

/-- The slot at a distance upstream of a slot (R93). -/
def upstreamSlot (own : Fin 32) (d : Nat) : Option (Fin 32) := if d ≤ own.val then slotOf (own.val - d) else none

/-- The slot at a distance downstream of a slot (R94). -/
def downstreamSlot (own : Fin 32) (d : Nat) : Option (Fin 32) := slotOf (own.val + d)

theorem upstreamAt_eq (slots : Table (Option Neighbour) 32) (own : Fin 32) (d : Nat) :
    upstreamAt slots own d = (upstreamSlot own d).bind slots.get := by
  unfold upstreamAt upstreamSlot
  split <;> rfl

theorem downstreamAt_eq (slots : Table (Option Neighbour) 32) (own : Fin 32) (d : Nat) :
    downstreamAt slots own d = (downstreamSlot own d).bind slots.get := rfl

theorem upstreamSlot_eq_some {own n : Fin 32} {d : Nat} : upstreamSlot own d = some n ↔ n.val + d = own.val := by
  unfold upstreamSlot
  split
  · rw [slotOf_eq_some]; omega
  · simp only [reduceCtorEq, false_iff]; omega

theorem downstreamSlot_eq_some {own n : Fin 32} {d : Nat} : downstreamSlot own d = some n ↔ n.val = own.val + d := by
  rw [downstreamSlot, slotOf_eq_some, eq_comm]

theorem mem_distances {radius d : Nat} : d ∈ distances radius ↔ 1 ≤ d ∧ d ≤ radius := by
  simp only [distances, List.mem_map, List.mem_range]
  constructor
  · rintro ⟨k, low, rfl⟩; omega
  · intro h; exact ⟨d - 1, by omega, by omega⟩

theorem length_distances (radius : Nat) : (distances radius).length = radius := by simp [distances]

theorem nodup_distances (radius : Nat) : (distances radius).Nodup :=
  List.nodup_range.map fun _ _ => Nat.succ.inj

/-- The slots within the radius of a slot, in the order in which the pool takes them: upstream, then downstream (R79). -/
def slotsInReach (own : Fin 32) (radius : Nat) : List (Fin 32) :=
  (distances radius).filterMap (upstreamSlot own) ++ (distances radius).filterMap (downstreamSlot own)

/-- A slot within the radius of another, and not that one. -/
abbrev InReach (own : Fin 32) (radius : Nat) (n : Fin 32) : Prop :=
  n ≠ own ∧ n.val ≤ own.val + radius ∧ own.val ≤ n.val + radius

theorem mem_slotsInReach {own n : Fin 32} {radius : Nat} : n ∈ slotsInReach own radius ↔ InReach own radius n := by
  simp only [slotsInReach, List.mem_append, List.mem_filterMap, mem_distances, upstreamSlot_eq_some, downstreamSlot_eq_some,
    InReach, ne_eq, Fin.ext_iff]
  constructor
  · rintro (⟨d, range, place⟩ | ⟨d, range, place⟩) <;> omega
  · rintro ⟨other, high, low⟩
    rcases Nat.lt_or_ge n.val own.val with up | down
    · exact .inl ⟨own.val - n.val, by omega, by omega⟩
    · exact .inr ⟨n.val - own.val, by omega, by omega⟩

theorem nodup_slotsInReach (own : Fin 32) (radius : Nat) : (slotsInReach own radius).Nodup := by
  refine List.nodup_append.mpr ⟨?_, ?_, ?_⟩
  · refine (nodup_distances radius).filterMap fun d e n hd he => ?_
    rw [Option.mem_def, upstreamSlot_eq_some] at hd he
    omega
  · refine (nodup_distances radius).filterMap fun d e n hd he => ?_
    rw [Option.mem_def, downstreamSlot_eq_some] at hd he
    omega
  · simp only [List.mem_filterMap, mem_distances, upstreamSlot_eq_some, downstreamSlot_eq_some]
    rintro n ⟨d, range, place⟩ m ⟨e, range', place'⟩ rfl
    omega

theorem length_slotsInReach_le (own : Fin 32) (radius : Nat) : (slotsInReach own radius).length ≤ 2 * radius := by
  have up := List.length_filterMap_le (upstreamSlot own) (distances radius)
  have down := List.length_filterMap_le (downstreamSlot own) (distances radius)
  rw [length_distances] at up down
  rw [slotsInReach, List.length_append]
  omega

/-- Each slot within reach is met once. -/
theorem slotsInReach_perm (own : Fin 32) (radius : Nat) :
    (slotsInReach own radius).Perm ((List.finRange 32).filter fun n => InReach own radius n) :=
  (List.perm_ext_iff_of_nodup (nodup_slotsInReach own radius) ((List.nodup_finRange 32).filter _)).mpr fun n => by
    rw [mem_slotsInReach]; simp

/-! ### The members of the pool -/

theorem poolAmbient_eq_some {n : Option Neighbour} {a : Nat} :
    poolAmbient n = some a ↔ ∃ r, n = some r ∧ r.freshness = .fresh ∧ r.ambient = some a := by
  simp [poolAmbient, Option.bind_eq_some_iff]

/-- The pool's members that come of records (R79). -/
def poolNeighbours (o : Options) (i : PassInputs) : List Nat :=
  match i.ownSlot with
  | some own => (slotsInReach own o.radius).filterMap fun n => poolAmbient (i.slots.get n)
  | none => []

/-- The pool's members that come of the own ambient (R79). -/
def poolOwn (o : Options) (i : PassInputs) : List Nat :=
  match i.aOwn with
  | some a => List.replicate o.ownWeight a
  | none => []

/-- Looking at a record through the slot that a search meets is looking at that slot. -/
theorem filterMap_poolAmbient {slots : Table (Option Neighbour) 32} {look : Nat → Option (Fin 32)} (ds : List Nat) :
    ds.filterMap (fun d => poolAmbient ((look d).bind slots.get)) =
      (ds.filterMap look).filterMap fun n => poolAmbient (slots.get n) := by
  rw [List.filterMap_filterMap]
  refine List.filterMap_congr fun d _ => ?_
  cases look d <;> rfl

theorem poolList_eq (o : Options) (i : PassInputs) : poolList o i = poolOwn o i ++ poolNeighbours o i := by
  unfold poolList poolOwn poolNeighbours
  congr 1
  cases i.ownSlot with
  | none => rfl
  | some own => simp only [upstreamAt_eq, downstreamAt_eq, filterMap_poolAmbient, slotsInReach, List.filterMap_append]

theorem count_poolOwn (o : Options) (i : PassInputs) (a : Nat) :
    (poolOwn o i).count a = if i.aOwn = some a then o.ownWeight else 0 := by
  unfold poolOwn
  cases i.aOwn with
  | none => rfl
  | some b => simp [List.count_replicate]

/-- A code stands among the neighbours' as often as there are slots within reach whose record publishes it. -/
theorem count_poolNeighbours {i : PassInputs} {own : Fin 32} (o : Options) (h : i.ownSlot = some own) (a : Nat) :
    (poolNeighbours o i).count a =
      (List.finRange 32).countP fun n => InReach own o.radius n ∧ poolAmbient (i.slots.get n) = some a := by
  have taken : poolNeighbours o i = (slotsInReach own o.radius).filterMap fun n => poolAmbient (i.slots.get n) := by
    rw [poolNeighbours, h]
  rw [taken, List.count, List.countP_filterMap, (slotsInReach_perm own o.radius).countP_eq, List.countP_filter]
  refine List.countP_congr fun n _ => ?_
  cases poolAmbient (i.slots.get n) <;> simp [and_comm, and_assoc]

theorem mem_poolNeighbours {o : Options} {i : PassInputs} {a : Nat} : a ∈ poolNeighbours o i ↔
    ∃ own n, i.ownSlot = some own ∧ InReach own o.radius n ∧ poolAmbient (i.slots.get n) = some a := by
  unfold poolNeighbours
  cases i.ownSlot with
  | none => simp
  | some own => simp [mem_slotsInReach]

theorem mem_poolOwn {o : Options} {i : PassInputs} {a : Nat} : a ∈ poolOwn o i ↔ i.aOwn = some a ∧ 0 < o.ownWeight := by
  rw [← List.count_pos_iff, count_poolOwn]
  split <;> simp [*]

theorem length_poolList_le (o : Options) (i : PassInputs) : (poolList o i).length ≤ o.ownWeight + 2 * o.radius := by
  rw [poolList_eq, List.length_append]
  refine Nat.add_le_add ?_ ?_
  · unfold poolOwn
    split <;> simp
  · unfold poolNeighbours
    split
    · exact (List.length_filterMap_le _ _).trans (length_slotsInReach_le _ _)
    · exact Nat.zero_le _

/-! ### The lower median -/

theorem lowerMedian_nil : lowerMedian [] = none := rfl

/-- The lower median of a list that is not empty is a member of it. -/
theorem lowerMedian_of_ne_nil {pool : List Nat} (h : pool ≠ []) : ∃ a, lowerMedian pool = some a ∧ a ∈ pool := by
  have length := (List.perm_insertionSort (· ≤ ·) pool).length_eq
  have nonempty := List.length_pos_iff.mpr h
  have place : (pool.length - 1) / 2 < (pool.insertionSort (· ≤ ·)).length := by omega
  exact ⟨_, List.getElem?_eq_getElem place, (List.perm_insertionSort (· ≤ ·) pool).mem_iff.mp (List.getElem_mem place)⟩

theorem lowerMedian_mem {pool : List Nat} {a : Nat} (h : lowerMedian pool = some a) : a ∈ pool :=
  (List.perm_insertionSort (· ≤ ·) pool).mem_iff.mp (List.mem_of_getElem? h)

/-- A pass past the first eight and without a dark cause is HELD when the pool is empty (R83, R85). -/
theorem modeOf_held {o : Options} {i : PassInputs} {passes : Nat} (late : 8 ≤ passes) (light : darkCause i = false)
    (empty : poolAmbientCode o i = none) : modeOf o i passes = .held := by
  have past : ¬passes < Config.startingPasses := Nat.not_lt.mpr late
  simp [modeOf, light, past, empty]

/-- Settles O22: the records of the pool are those of the slots within reach, each met once, and its median is a member of it. -/
theorem poolMedian : Obligations.PoolMedian := by
  unfold Obligations.PoolMedian
  refine ⟨fun o i => ⟨length_poolList_le o i, fun a => ?_, fun a => ?_, fun own published a median => ?_, rfl, fun empty => ?_⟩,
    fun pool => ⟨fun empty => empty ▸ lowerMedian_nil, fun nonempty => ?_⟩⟩
  · rw [poolList_eq, List.count_append, count_poolOwn, ← List.countP_eq_length_filter]
    congr 1
    cases slot : i.ownSlot with
    | none => simp [poolNeighbours, slot]
    | some own =>
      rw [count_poolNeighbours o slot]
      refine List.countP_congr fun n _ => ?_
      cases i.slots.get n <;> simp [poolAmbient_eq_some, and_assoc]
  · simp only [poolList_eq, List.mem_append, mem_poolOwn, mem_poolNeighbours, poolAmbient_eq_some, InReach, and_assoc,
      exists_and_left]
  · have member := lowerMedian_mem median
    rw [poolList_eq, List.mem_append, mem_poolOwn, mem_poolNeighbours] at member
    rcases member with ⟨mine, -⟩ | ⟨-, n, -, -, theirs⟩
    · exact own a mine
    · obtain ⟨r, filled, -, code⟩ := poolAmbient_eq_some.mp theirs
      exact published n r a filled code
  · have absent : poolAmbientCode o i = none := by rw [poolAmbientCode, empty, lowerMedian_nil]
    exact ⟨absent, by rw [ceiling, absent]; rfl, fun passes late light => modeOf_held late light absent⟩
  · obtain ⟨a, median, member⟩ := lowerMedian_of_ne_nil nonempty
    exact ⟨pool.insertionSort (· ≤ ·), a, List.perm_insertionSort _ _, List.pairwise_insertionSort _ _, median, median, member,
      fun b least => least a member, fun b most => most a member⟩

end Sys2Proof.Machine
end

section
/-! The luminance of a pass: the base, the demand, the continuity bounds, the target, and the slew of Y_out towards it (R86 to R98). -/

namespace Sys2Proof.Machine

open Sys2Proof

/-! ### The demand -/

theorem demand_uncapped {i : PassInputs} (h : i.cap = none) (base : Nat) : demand i base = base - i.derate := by
  unfold demand; rw [h]

theorem demand_capped {i : PassInputs} {c : CapRecord} (h : i.cap = some c) (base : Nat) :
    demand i base = min (base - i.derate) c.level := by
  unfold demand; rw [h]

/-! ### The base -/

theorem baseLuminance_held {o : Options} {st : Settling} {y : Nat} (i : PassInputs) (held : st.heldCeiling = some y)
    (early : st.holdCount < holdLimit o) : baseLuminance o i st .held = y := by
  unfold baseLuminance; simp [held, early]

theorem baseLuminance_fallback {o : Options} {st : Settling} (i : PassInputs)
    (h : st.heldCeiling = none ∨ holdLimit o ≤ st.holdCount) : baseLuminance o i st .held = o.yFallback := by
  rcases held : st.heldCeiling with - | y
  · simp [baseLuminance, held]
  · have late : ¬st.holdCount < holdLimit o := by simpa [held] using h
    simp [baseLuminance, held, late]

/-! ### The continuity bounds -/

/-- No record that decides a bound stands where a search looks. -/
abbrev PassedOver (look : Nat → Option Neighbour) (d : Nat) : Prop := ∀ q, look d = some q → eligible q = false

section
variable (gradient : Nat) {look : Nat → Option Neighbour}

/-- A search goes on past a place that decides nothing. -/
theorem nearestBound_passedOver {d : Nat} (h : PassedOver look d) (rest : List Nat) :
    nearestBound gradient look (d :: rest) = nearestBound gradient look rest := by
  rw [nearestBound]
  split
  · next q met => rw [h q met]; rfl
  · rfl

/-- A search that meets no record that decides finds no bound. -/
theorem nearestBound_none {ds : List Nat} (h : ∀ d ∈ ds, PassedOver look d) : nearestBound gradient look ds = none := by
  induction ds with
  | nil => rfl
  | cons d rest ih =>
    obtain ⟨first, others⟩ := List.forall_mem_cons.mp h
    rw [nearestBound_passedOver gradient first, ih others]

/-- The first record met that decides gives the bound (R93, R94). -/
theorem nearestBound_first {before rest : List Nat} {d : Nat} {r : Neighbour} (passed : ∀ e ∈ before, PassedOver look e)
    (met : look d = some r) (decides : eligible r = true) :
    nearestBound gradient look (before ++ d :: rest) = some (r.yOut + gradient * d) := by
  induction before with
  | nil => simp [nearestBound, met, decides]
  | cons e before ih =>
    obtain ⟨first, others⟩ := List.forall_mem_cons.mp passed
    rw [List.cons_append, nearestBound_passedOver gradient first, ih others]

/-- The distances up to a radius, cut at one of them. -/
theorem distances_eq_append {radius d : Nat} (low : 1 ≤ d) (high : d ≤ radius) :
    ∃ rest, distances radius = distances (d - 1) ++ d :: rest := by
  obtain ⟨k, rfl⟩ : ∃ k, d = k + 1 := ⟨d - 1, by omega⟩
  obtain ⟨m, rfl⟩ : ∃ m, radius = k + 1 + m := ⟨radius - (k + 1), by omega⟩
  refine ⟨(List.range m).map fun x => k + 1 + x + 1, ?_⟩
  simp [distances, List.range_add, List.range_succ, Function.comp_def]

/-- Of the distances up to a radius, the least at which a record decides gives the bound (R93, R94). -/
theorem nearestBound_distances {radius d : Nat} {r : Neighbour} (low : 1 ≤ d) (high : d ≤ radius) (met : look d = some r)
    (decides : eligible r = true) (nearest : ∀ e, 1 ≤ e → e < d → PassedOver look e) :
    nearestBound gradient look (distances radius) = some (r.yOut + gradient * d) := by
  obtain ⟨rest, apart⟩ := distances_eq_append low high
  rw [apart]
  refine nearestBound_first gradient (fun e mem => ?_) met decides
  obtain ⟨some, closer⟩ := mem_distances.mp mem
  exact nearest e some (by omega)

theorem nearestBound_distances_none {radius : Nat} (h : ∀ d, 1 ≤ d → d ≤ radius → PassedOver look d) :
    nearestBound gradient look (distances radius) = none :=
  nearestBound_none gradient fun d mem => h d (mem_distances.mp mem).1 (mem_distances.mp mem).2

end

section
variable {o : Options} {i : PassInputs} {mode : Mode}

theorem boundsFormed_iff : boundsFormed mode = true ↔ mode = .regulating ∨ mode = .held := by
  simp [boundsFormed]

/-- Where bounds are formed, each is that of its side's search (R93, R94). -/
theorem bounds_eq_nearest {own : Fin 32} (slot : i.ownSlot = some own) (formed : mode = .regulating ∨ mode = .held) :
    upstreamBound o i mode = nearestBound o.gradient (upstreamAt i.slots own) (distances o.radius) ∧
      downstreamBound o i mode = nearestBound o.gradient (downstreamAt i.slots own) (distances o.radius) := by
  simp [upstreamBound, downstreamBound, boundsFormed_iff.mpr formed, slot]

/-- In STARTING, in DARK and without the own slot no bound is formed (R95). -/
theorem bounds_eq_none (h : mode = .starting ∨ mode = .dark ∨ i.ownSlot = none) :
    upstreamBound o i mode = none ∧ downstreamBound o i mode = none := by
  unfold upstreamBound downstreamBound
  rcases h with rfl | rfl | absent
  · exact ⟨rfl, rfl⟩
  · exact ⟨rfl, rfl⟩
  · simp [absent]

/-- A bound is absent where the search of its side meets no record that decides, whatever the mode (R93 to R95). -/
theorem upstreamBound_none {own : Fin 32} (slot : i.ownSlot = some own)
    (h : ∀ d, 1 ≤ d → d ≤ o.radius → PassedOver (upstreamAt i.slots own) d) : upstreamBound o i mode = none := by
  simp [upstreamBound, slot, nearestBound_distances_none _ h]

theorem downstreamBound_none {own : Fin 32} (slot : i.ownSlot = some own)
    (h : ∀ d, 1 ≤ d → d ≤ o.radius → PassedOver (downstreamAt i.slots own) d) : downstreamBound o i mode = none := by
  simp [downstreamBound, slot, nearestBound_distances_none _ h]

end

/-! ### The target -/

/-- `y` is the least of a demand, two bounds that may be absent, and a peak. -/
def LeastTerm (y base : Nat) (up down : Option Nat) (peak : Nat) : Prop :=
  y ≤ base ∧ y ≤ peak ∧ (∀ b, up = some b → y ≤ b) ∧ (∀ b, down = some b → y ≤ b) ∧
    (y = base ∨ y = peak ∨ up = some y ∨ down = some y)

theorem leastTerm_boundedBy (base : Nat) (up down : Option Nat) (peak : Nat) :
    LeastTerm (min (boundedBy (boundedBy base up) down) peak) base up down peak := by
  unfold LeastTerm
  cases up <;> cases down <;>
    simp only [boundedBy, Option.getD_none, Option.getD_some, Option.some.injEq, reduceCtorEq, forall_eq', false_implies,
      implies_true, true_and, false_or, or_false] <;> omega

theorem target_least (o : Options) (i : PassInputs) (st : Settling) (mode : Mode) :
    LeastTerm (target o i st mode) (demand i (baseLuminance o i st mode)) (upstreamBound o i mode) (downstreamBound o i mode)
      o.yPeak := leastTerm_boundedBy _ _ _ _

/-- The target never exceeds Y_peak (R96). -/
theorem target_le_yPeak (o : Options) (i : PassInputs) (st : Settling) (mode : Mode) : target o i st mode ≤ o.yPeak :=
  Nat.min_le_right _ _

theorem target_unbounded {o : Options} {i : PassInputs} {mode : Mode} (st : Settling)
    (h : upstreamBound o i mode = none ∧ downstreamBound o i mode = none) :
    target o i st mode = min (demand i (baseLuminance o i st mode)) o.yPeak := by
  obtain ⟨up, down⟩ := h
  simp [target, boundedBy, up, down]

/-! ### The slew -/

section
variable (o : Options) (immediate : Bool) {y t : Nat}

theorem slew_rise (h : y < t) : slew o immediate y t = min t (y + o.slewUp) := if_pos h

theorem slew_fall (h : t ≤ y) : slew o false y t = max t (y - o.slewDown) := by
  simp [slew, Nat.not_lt.mpr h]

theorem slew_immediate (h : t ≤ y) : slew o true y t = t := by
  simp [slew, Nat.not_lt.mpr h]

/-- Everything that the slew can do: a rise within S_up, a fall within S_down, or a fall without limit (R97, R98). -/
theorem slew_cases (y t : Nat) :
    (y < t ∧ slew o immediate y t = min t (y + o.slewUp)) ∨
      (t ≤ y ∧ immediate = false ∧ slew o immediate y t = max t (y - o.slewDown)) ∨
      (t ≤ y ∧ immediate = true ∧ slew o immediate y t = t) := by
  rcases Nat.lt_or_ge y t with rise | fall
  · exact .inl ⟨rise, slew_rise o immediate rise⟩
  · cases immediate with
    | false => exact .inr (.inl ⟨fall, rfl, slew_fall o fall⟩)
    | true => exact .inr (.inr ⟨fall, rfl, slew_immediate o fall⟩)

/-- Y_out stays when it stands at the target. -/
theorem slew_self (y : Nat) : slew o immediate y y = y := by
  rcases slew_cases o immediate y y with ⟨rise, -⟩ | ⟨-, -, e⟩ | ⟨-, -, e⟩
  · exact absurd rise (Nat.lt_irrefl y)
  · rw [e]; omega
  · exact e

/-- What holds of every slew: no rise beyond S_up, no fall beyond S_down that is not IMMEDIATE, none past the target, and rest only
at the target when both limits allow a move (R97, R98). -/
theorem slew_limits (y t : Nat) :
    slew o immediate y t ≤ y + o.slewUp ∧ (immediate = false → y ≤ slew o immediate y t + o.slewDown) ∧
      min y t ≤ slew o immediate y t ∧ slew o immediate y t ≤ max y t ∧
      (1 ≤ o.slewUp → 1 ≤ o.slewDown → slew o immediate y t = y → t = y) := by
  rcases slew_cases o immediate y t with ⟨rise, e⟩ | ⟨fall, rfl, e⟩ | ⟨fall, rfl, e⟩ <;> rw [e]
  · omega
  · omega
  · simp only [reduceCtorEq, false_implies, true_and]
    omega

end

/-- Y_out after a pass that is not DARK moves by the slew (R97). -/
theorem nextOut_of_ne_dark {mode : Mode} (h : mode ≠ .dark) (o : Options) (i : PassInputs) (st : Settling) :
    nextOut o i st mode = slew o (i.cap.any CapRecord.immediate) st.yOut (target o i st mode) := if_neg h

theorem nextOut_dark (o : Options) (i : PassInputs) (st : Settling) : nextOut o i st .dark = 0 := rfl

/-- Settles O23: the bounds by what their searches meet first, the target as a least term, and Y_out by the cases of the slew. -/
theorem targetAndSlew : Obligations.TargetAndSlew := by
  unfold Obligations.TargetAndSlew
  refine fun o i st mode => ⟨⟨rfl, fun y ceil => ?_, fun y => baseLuminance_held i, baseLuminance_fallback i⟩,
    fun y => ⟨fun free => demand_uncapped free y, fun c cap => demand_capped cap y⟩,
    fun own d r slot formed low high met decides nearest => ?_, fun own d r slot formed low high met decides nearest => ?_,
    fun own slot => ⟨fun unmet => upstreamBound_none slot fun d low high q => unmet d q low high,
      fun unmet => downstreamBound_none slot fun d low high q => unmet d q low high⟩, fun unformed => ?_, target_least o i st mode,
    fun light => ?_, nextOut_dark o i st⟩
  · simp [baseLuminance, ceil]
  · rw [(bounds_eq_nearest slot formed).1]
    exact nearestBound_distances _ low high met decides fun e some closer q => nearest e q some closer
  · rw [(bounds_eq_nearest slot formed).2]
    exact nearestBound_distances _ low high met decides fun e some closer q => nearest e q some closer
  · obtain ⟨up, down⟩ := bounds_eq_none (o := o) unformed
    exact ⟨up, down, target_unbounded st ⟨up, down⟩⟩
  · rw [nextOut_of_ne_dark light]
    obtain ⟨up, down, low, high, rests⟩ := slew_limits o (i.cap.any CapRecord.immediate) st.yOut (target o i st mode)
    exact ⟨slew_rise o _, fun fall limited => limited ▸ slew_fall o fall.le, fun level => level ▸ slew_self o _ _, up, down,
      fun free fall => free ▸ slew_immediate o fall, low, high, rests⟩

end Sys2Proof.Machine
end

section
/-! Every step keeps the settling controller in range, its stage record beside its mode and Y_out (R85, R88, R89, R97, R101, R103). -/

namespace Sys2Proof.Machine

open Sys2Proof

theorem KeepsLater.settling_eq {l : List Part} {s t : State} (h : KeepsLater l s t) (hl : Part.settling ∉ l) :
    t.settling = s.settling := by
  obtain ⟨n, h⟩ := h
  exact (h _ hl).trans (State.passHalves_settling n s)

/-! ### A pass -/

section
variable {o : Options} {st : Settling} (i : PassInputs)

/-- Y_out does not leave 0..Y_peak (R96, R97). -/
theorem nextOut_le_yPeak (h : st.yOut ≤ o.yPeak) (mode : Mode) : nextOut o i st mode ≤ o.yPeak := by
  by_cases dark : mode = .dark
  · rw [dark, nextOut_dark]
    exact Nat.zero_le _
  · obtain ⟨-, -, -, high, -⟩ := slew_limits o (i.cap.any CapRecord.immediate) st.yOut (target o i st mode)
    rw [nextOut_of_ne_dark dark]
    exact high.trans (max_le h (target_le_yPeak o i st mode))

/-- The hold count stops at the hold limit (R87, R88). -/
theorem nextHoldCount_le (h : st.holdCount ≤ holdLimit o) (mode : Mode) : nextHoldCount o st mode ≤ holdLimit o := by
  unfold nextHoldCount
  split
  · exact Nat.zero_le _
  · split
    · exact satSucc_le _ _
    · exact h

theorem ceiling_le (curve : ∀ p ∈ o.curve, p.2 ≤ 511) {y : Nat} (h : ceiling o i = some y) : y ≤ 511 := by
  obtain ⟨pool, -, rfl⟩ := Option.map_eq_some_iff.mp h
  exact ceilingAt_le curve pool

/-- The held ceiling is one that the curve gives (R87). -/
theorem nextHeld_le (curve : ∀ p ∈ o.curve, p.2 ≤ 511) (h : ∀ y, st.heldCeiling = some y → y ≤ 511) (mode : Mode) (y : Nat)
    (held : nextHeld o i st mode = some y) : y ≤ 511 := by
  unfold nextHeld at held
  split at held
  · exact ceiling_le i curve held
  · exact h y held

/-- A pass keeps the controller sound, whatever its inputs (R76 to R101). -/
theorem Settling.Sound.settle (h : st.Sound o) (curve : ∀ p ∈ o.curve, p.2 ≤ 511) : (settle o i st).Sound o := by
  obtain ⟨yOut, hold, -, held, -⟩ := h
  refine ⟨nextOut_le_yPeak i yOut _, nextHoldCount_le hold _, satSucc_le _ _, nextHeld_le i curve held _, fun dark => ?_, rfl, rfl⟩
  show nextOut o i st (modeOf o i st.passes) = 0
  rw [show modeOf o i st.passes = .dark from dark, nextOut_dark]

end

/-! ### The controller of a state -/

theorem SettlingSound.congr {s t : State} (h : SettlingSound s) (startUp : t.startUp = s.startUp) (settling : t.settling = s.settling) :
    SettlingSound t := by
  unfold SettlingSound State.options
  rw [startUp, settling]
  exact h

/-- Start-up's rows, before the values are applied and after, leave a controller that has made no pass. -/
theorem SettlingSound.startUp {s t : State} (h : SettlingSound s) (idle : s.startUp.phase ≠ .running)
    (applied : t.startUp.applied = s.startUp.applied) (settling : t.settling = s.settling) : SettlingSound t := by
  obtain ⟨curve, sound, fresh⟩ := h
  unfold SettlingSound State.options
  rw [applied, settling]
  exact ⟨curve, sound, fun _ => fresh idle⟩

/-- The curve in use has no breakpoint above 511 (R206). -/
theorem SettlingSound.curve_le {s : State} (h : SettlingSound s) : ∀ p ∈ s.options.curve, p.2 ≤ 511 := by
  obtain ⟨curve, -⟩ := h
  unfold State.options
  cases applied : s.startUp.applied with
  | none => decide
  | some o => exact curve o applied

/-- The pass interval runs only once the blocks are released (R3, R103). -/
theorem SettlingSound.running_of_passDue {s : State} (h : SettlingSound s) {d : Nat} (due : s.settling.passDue = some d) :
    s.startUp.phase = .running := by
  obtain ⟨-, -, fresh⟩ := h
  by_contra idle
  rw [fresh idle] at due
  cases due

/-- The values applied give Y_out its start (R103). -/
theorem State.handOver_settling (a : Applied) (octets : List Octet) (s : State) : (s.handOver a octets).settling =
    { s.settling with
      yOut := min a.options.yStart a.options.yPeak
      stage := { s.settling.stage with yOut := min a.options.yStart a.options.yPeak } } := rfl

/-- Handed the values applied, the controller is sound, and otherwise as after reset (R103, R209). -/
theorem SettlingSound.handOver {s : State} (h : SettlingSound s) (idle : s.startUp.phase ≠ .running) {a : Applied}
    (range : a.options.InRange) (octets : List Octet) : SettlingSound (s.handOver a octets) := by
  obtain ⟨-, -, fresh⟩ := h
  obtain ⟨-, ⟨-, curve, -⟩, -⟩ := range
  have made : (s.handOver a octets).settling = { Settling.reset with
      yOut := min a.options.yStart a.options.yPeak, stage := StageRecord.starting (min a.options.yStart a.options.yPeak) } := by
    rw [State.handOver_settling, fresh idle]
    rfl
  have options : (s.handOver a octets).options = a.options := rfl
  refine ⟨fun o applied => ?_, ?_, fun _ => ?_⟩
  · obtain rfl : a.options = o := Option.some.inj applied
    exact fun p mem => (curve p mem).2
  · rw [made, options]
    simp [Settling.Sound, Settling.reset, StageRecord.starting]
  · rw [made]

/-- The release starts the pass interval and leaves the rest (R3, R210). -/
theorem SettlingSound.release {s : State} (h : SettlingSound s) : SettlingSound s.release := by
  obtain ⟨curve, sound, -⟩ := h
  exact ⟨curve, sound, fun idle => absurd rfl idle⟩

theorem SettlingSound.pass {s : State} (h : SettlingSound s) (run : s.startUp.phase = .running) (d : Nat) :
    SettlingSound (s.pass d) := by
  have most := h.curve_le
  obtain ⟨curve, sound, -⟩ := h
  exact ⟨curve, Settling.Sound.settle s.passInputs sound most, fun idle => absurd run idle⟩

theorem settlingSound_exec {c : Instr} {s t : State} (inv : SettlingSound s) (h : exec c s = .next t) : SettlingSound t := by
  cases c with
  | resetAssert w => cases h; exact settlingSound_held _ _ _
  | resetEnd straps =>
    simp only [exec, execResetEnd, Host.Outcome.next.injEq] at h
    split at h <;> subst h
    · next held => exact inv.startUp (by simp [held]) rfl rfl
    · exact inv
  | readAttempt response =>
    rcases exec_readAttempt h with rfl | ⟨reading, rfl⟩
    · exact inv
    · exact inv.startUp (by simp [reading]) (by simp [State.attempt]) (by simp [State.attempt])
  | readOutcome octets =>
    rcases exec_readOutcome h with rfl | ⟨n, block, reading, rfl⟩
    · exact inv
    · have arrived : SettlingSound (s.arriveAt n) := inv.congr (by simp) (by simp)
      have handed := arrived.handOver (by simp [reading]) (appliedOf_inRange s.ownAddress block) (block.getD [])
      exact handed.congr (State.requestAll_startUp _ _) (State.requestAll_settling _ _)
  | settlingWaitExpiry =>
    rcases exec_settlingWaitExpiry h with rfl | ⟨-, rfl⟩
    · exact inv
    · have arrived : SettlingSound (s.arriveAt (s.startUp.waitEnd.getD 0)) := inv.congr (by simp) (by simp)
      exact arrived.release.congr (State.startAll_startUp _ _) (State.startAll_keeps _ _ .settling (by simp))
  | settlingPass =>
    cases h
    split
    · exact inv
    · next d due =>
      have arrived : SettlingSound (s.arriveAt d) := inv.congr (by simp) (by simp)
      exact arrived.pass (by simpa using inv.running_of_passDue due) d
  | _ => exact inv.congr ((exec_keepsLater h).startUp_eq (by simp [changes])) ((exec_keepsLater h).settling_eq (by simp [changes]))

/-- Settles O12: a pass keeps the controller in range and writes its stage record whole, and start-up's rows leave it as after reset but
for Y_out. -/
theorem stepKeepsSettlingSound : Obligations.StepKeepsSettlingSound := by
  unfold Obligations.StepKeepsSettlingSound
  exact keptByStep_of_exec (fun _ _ inv => inv) (fun s inv => inv.congr (by simp) (by simp)) fun c s t => settlingSound_exec

end Sys2Proof.Machine
end

section
/-! SETTLING_PASS: the mode, the stage record and the duty words (R76, R83 to R91, R99 to R101, R176, R177). -/

namespace Sys2Proof.Machine

open Sys2Proof

/-! ### What the fault table reports -/

/-- Some ACTIVE record of the table is of this kind. -/
theorem FaultTable.hasActive_iff {t : FaultTable} {kind : FaultKind} :
    t.hasActive kind = true ↔ ∃ r ∈ t.records, r.state = .active ∧ r.kind = kind := by
  simp [FaultTable.hasActive, FaultTable.activeRecords]

/-- The derate as the ACTIVE records give it (R176). -/
theorem FaultTable.derate_eq (t : FaultTable) : t.derate =
    if ∃ r ∈ t.records, r.state = .active ∧ r.kind = .thermalWarn then 32
    else if ∃ r ∈ t.records, r.state = .active ∧ r.kind = .supplyDroop then 16 else 0 :=
  if_congr FaultTable.hasActive_iff rfl (if_congr FaultTable.hasActive_iff rfl rfl)

theorem FaultRecord.isFor_iff {r : FaultRecord} {kind : FaultKind} {source : Source} :
    r.isFor kind source = true ↔ r.kind = kind ∧ r.source = source := by
  simp [FaultRecord.isFor]

/-- Some ACTIVE record reports the chain down. -/
theorem FaultTable.reportsDown_iff {t : FaultTable} {c : Fin 4} :
    (t.activeRecords.any fun r => r.isFor .chainDown (chainSource c)) = true ↔
      ∃ r ∈ t.records, r.state = .active ∧ r.kind = .chainDown ∧ r.source = BitVec.ofNat 6 c.val := by
  simp only [FaultTable.activeRecords, List.any_filter, List.any_eq_true, Bool.and_eq_true, decide_eq_true_eq,
    FaultRecord.isFor_iff]
  rfl

/-- The fault table's dark cause: a tile too hot, or every used chain down (R177). -/
theorem State.faultDark_iff {s : State} : s.faultDark = true ↔
    (∃ r ∈ s.faults.records, r.state = .active ∧ r.kind = .thermalCrit) ∨
      ((∃ c, s.used c = true) ∧ ∀ c, s.used c = true → ∃ r ∈ s.faults.records,
        r.state = .active ∧ r.kind = .chainDown ∧ r.source = BitVec.ofNat 6 c.val) := by
  unfold State.faultDark
  rw [Bool.or_eq_true, Bool.and_eq_true, FaultTable.hasActive_iff, List.any_eq_true, List.all_eq_true]
  simp only [List.mem_finRange, true_and, true_implies, Bool.or_eq_true, Bool.not_eq_true', FaultTable.reportsDown_iff,
    or_iff_not_imp_left, Bool.not_eq_false]

/-! ### The mode -/

section
variable {o : Options} {i : PassInputs} {passes : Nat}

theorem modeOf_eq_dark : modeOf o i passes = .dark ↔ darkCause i = true := by
  unfold modeOf
  split
  · next dark => simp [dark]
  · next light =>
    split
    · simp [light]
    · split <;> simp [light]

/-- Without a dark cause the mode follows from the pass count and the pool (R83, R85). -/
theorem modeOf_light (light : darkCause i = false) : modeOf o i passes =
    if passes < 8 then .starting else if poolAmbientCode o i = none then .held else .regulating := by
  unfold modeOf
  rw [light, if_neg Bool.false_ne_true]
  exact if_congr Iff.rfl rfl (if_congr Option.isNone_iff_eq_none rfl rfl)

end

/-- A pass finds a dark cause in the fault table or in the cap (R84). -/
theorem State.darkCause_iff {s : State} : darkCause s.passInputs = true ↔
    s.faultDark = true ∨ ∃ r, s.cap.record = some r ∧ r.blank = true := by
  simp [darkCause, State.passInputs, Option.any_eq_true]

/-! ### The duty words -/

/-- The chains after a pass: a used one is posted its duty word (R99, R100). -/
theorem State.pass_chain (d : Nat) (s : State) (c : Fin 4) : (s.pass d).chains.get c =
    if s.used c then
      (s.chains.get c).postDuty (dutyOf s.options (modeOf s.options s.passInputs s.settling.passes)
        (nextOut s.options s.passInputs s.settling (modeOf s.options s.passInputs s.settling.passes)) c)
    else s.chains.get c := Table.get_mapWithIndex _ _ _

/-- A chain that is not OFF takes its duty word as a brightness request and as its current one (R100, R118, R140). -/
theorem Chain.postDuty_eq {ch : Chain} (h : ch.state ≠ .off) (value : Nat) : ch.postDuty value =
    { ch with pend := { ch.pend with brightness := true }, pendingValue := value, duty := some value } := by
  simp [Chain.postDuty, Chain.postBrightness, h]

@[simp] theorem State.passHalves_chainState (n : Nat) (s : State) (c : Fin 4) :
    ((s.passHalves n).chains.get c).state = (s.chains.get c).state := by rw [State.passHalves_chain_eq]

@[simp] theorem State.passHalves_pend (n : Nat) (s : State) (c : Fin 4) :
    ((s.passHalves n).chains.get c).pend = (s.chains.get c).pend := by rw [State.passHalves_chain_eq]

/-! ### The pass -/

/-- The inputs of a pass do not change on the way to its moment (R77). -/
theorem State.arriveAt_passInputs (t : Nat) (s : State) : (s.arriveAt t).passInputs = s.passInputs := by
  have used : (s.arriveAt t).used = s.used := funext (State.arriveAt_used s t)
  simp [State.passInputs, State.ownAmbient, State.faultDark, used]

theorem exec_settlingPass {s : State} {d : Nat} (due : s.settling.passDue = some d) :
    exec .settlingPass s = .next ((s.arriveAt d).pass d) := by
  simp [exec, execSettlingPass, due]

/-- The controller after a pass made at its moment (R76, R78). -/
theorem State.pass_settling (d : Nat) (s : State) : ((s.arriveAt d).pass d).settling =
    { settle s.options s.passInputs s.settling with passDue := some (d + 250000) } := by
  show { settle (s.arriveAt d).options (s.arriveAt d).passInputs (s.arriveAt d).settling with
    passDue := some (d + Config.quarterSecond) } = _
  rw [State.arriveAt_options, State.arriveAt_passInputs, State.arriveAt_settling]
  rfl

/-- Settles O44: the mode by its causes, the controller as it settles, and the duty words chain by chain. -/
theorem passSettles : Obligations.PassSettles := by
  unfold Obligations.PassSettles
  intro s d due
  refine ⟨_, modeOf s.options s.passInputs s.settling.passes, exec_settlingPass due, keeps_pass d _, ?_, fun light => ?_, ?_⟩
  · rw [modeOf_eq_dark, State.darkCause_iff, State.faultDark_iff, or_right_comm, or_assoc]
  · exact modeOf_light (Bool.eq_false_iff.mpr (mt modeOf_eq_dark.mpr light))
  · rw [State.pass_settling]
    refine ⟨rfl, rfl, rfl, rfl, rfl, rfl, ?_, fun c => ⟨fun unused => ?_, fun used on => ?_⟩⟩
    · show stageOf _ _ _ _ = _
      rw [← FaultTable.derate_eq]
      rfl
    · rw [State.pass_chain, State.arriveAt_used, unused]
      rfl
    · rw [State.pass_chain, State.arriveAt_used, if_pos used, Chain.postDuty_eq (by simpa [State.arriveAt_eq] using on),
        State.arriveAt_options, State.arriveAt_passInputs, State.arriveAt_settling, State.arriveAt_eq, State.passHalves_pend]
      rfl

end Sys2Proof.Machine
end

section
/-! Reading the option block: the attempts, what the configuration memory port shows, and the handing over of the values applied (R103,
R142, R202, R203, R209, R211). -/

namespace Sys2Proof.Machine

open Sys2Proof

/-! ### The attempts and the port -/

/-- READ_ATTEMPT where an attempt may begin (R202). -/
theorem exec_readAttempt_of_may {s : State} (response : Option (Fin 8)) (reading : s.startUp.phase = .reading)
    (few : s.startUp.attempts < 3) (unanswered : s.startUp.answered = none) :
    exec (.readAttempt response) s = .next ((s.arriveAt (attemptStart s.startUp.attempts)).attempt response) := by
  simp [exec, execReadAttempt, StartUp.mayAttempt, reading, few, unanswered]

/-- An attempt that is answered ends with the last of the 728 data bits (R202). -/
theorem attemptLength_some (j : Fin 8) : attemptLength (some j) = 753 + j.val := by
  simp only [attemptLength]; omega

/-- An attempt that is not answered ends with the search for the response (R202). -/
theorem attemptLength_none : attemptLength none = 32 := rfl

/-- Every attempt outlasts the command and the search for the response (R202). -/
theorem le_attemptLength (answered : Option (Fin 8)) : 32 ≤ attemptLength answered := by
  cases answered with
  | none => exact Nat.le_refl _
  | some j => rw [attemptLength_some]; omega

theorem State.memoryData_of_not_select {s : State} (h : s.memorySelect = false) : s.memoryData = none := by
  have idle : s.attemptBit = none := by simpa [State.memorySelect] using h
  simp [State.memoryData, idle]

/-- No select without an attempt (R202, R211). -/
theorem State.memorySelect_of_idle {s : State} (h : s.startUp.phase ≠ .reading ∨ s.startUp.attemptBegan = none) :
    s.memorySelect = false := by
  rw [← Bool.not_eq_true, State.memorySelect_iff]
  rintro ⟨t, began, reading, -⟩
  rcases h with other | never
  · exact other reading
  · rw [never] at began
    cases began

/-- The command octet 0x03 and the address 0, most significant bit first (R202; log entry 11). -/
theorem readCommand_getMsbD {k : Nat} (h : k < 24) :
    Config.readCommand.getMsbD k = decide (3 * 2 ^ 16 / 2 ^ (23 - k) % 2 = 1) := by
  have all : ∀ k : Fin 24, Config.readCommand.getMsbD k = decide (3 * 2 ^ 16 / 2 ^ (23 - k.val) % 2 = 1) := by decide
  exact all ⟨k, h⟩

section
variable {s : State} {begun : Nat} (reading : s.startUp.phase = .reading) (began : s.startUp.attemptBegan = some begun)
include reading began

/-- The select of an attempt in progress (R202). -/
theorem State.memorySelect_reading :
    s.memorySelect = true ↔ s.timeBase < begun + attemptLength s.startUp.answered := by
  rw [State.memorySelect_iff]
  simp [reading, began]

/-- The data output in an attempt's first 24 bit times (R202). -/
theorem State.memoryData_reading {k : Nat} (now : s.timeBase = begun + k) (early : k < 24) :
    s.memoryData = some (decide (3 * 2 ^ 16 / 2 ^ (23 - k) % 2 = 1)) := by
  have long := le_attemptLength s.startUp.answered
  have bit : s.attemptBit = some k := State.attemptBit_eq_some.mpr ⟨begun, began, reading, by omega, by omega⟩
  simp only [State.memoryData, bit, if_pos early, readCommand_getMsbD early]

end

/-! ### The outcome -/

/-- READING has come to its outcome: a memory answered with the block, or the third attempt had no response (R202). -/
def StartUp.EndsReading (u : StartUp) (begun : Nat) (octets : List Octet) (due : Nat) (block : Option (List Octet)) : Prop :=
  (∃ j : Fin 8, u.answered = some j ∧ due = begun + 753 + j.val ∧ block = some octets) ∨
    (u.answered = none ∧ u.attempts = 3 ∧ due = begun + 32 ∧ block = none)

theorem StartUp.EndsReading.outcome {u : StartUp} {begun due : Nat} {octets : List Octet} {block : Option (List Octet)}
    (h : u.EndsReading begun octets due block) (reading : u.phase = .reading) (began : u.attemptBegan = some begun) :
    u.outcome octets = some (due, block) := by
  rcases h with ⟨j, answered, rfl, rfl⟩ | ⟨unanswered, third, rfl, rfl⟩
  · simp [StartUp.outcome, began, reading, answered, attemptLength_some, Nat.add_assoc]
  · simp [StartUp.outcome, began, reading, unanswered, third, attemptLength_none]

/-- READ_OUTCOME where READING has come to its outcome (R203, R209). -/
theorem exec_readOutcome_of_outcome {s : State} {octets : List Octet} {due : Nat} {block : Option (List Octet)}
    (h : s.startUp.outcome octets = some (due, block)) : exec (.readOutcome octets) s =
      .next (((s.arriveAt due).handOver (appliedOf s.ownAddress block) (block.getD [])).requestAll
        (configRaises (appliedOf s.ownAddress block).raises)) := by
  simp [exec, execReadOutcome, h]

/-! ### The values handed over -/

section
variable (a : Applied) (octets : List Octet) (s : State)

@[simp] theorem State.handOver_timeBase : (s.handOver a octets).timeBase = s.timeBase := rfl
@[simp] theorem State.handOver_requests : (s.handOver a octets).requests = s.requests := rfl

theorem State.handOver_used (c : Fin 4) : (s.handOver a octets).used c = decide (0 < a.options.tileCounts.get c) := rfl

/-- A used chain is IDLE with its census posted, the others stay as they are (R142, R209). -/
theorem State.handOver_chain (c : Fin 4) : (s.handOver a octets).chains.get c =
    if 0 < a.options.tileCounts.get c then
      { s.chains.get c with state := .idle, pend := { (s.chains.get c).pend with census := true } }
    else s.chains.get c := by
  have powered : (s.handOver a octets).chains.get c = (s.chains.get c).powered ((s.handOver a octets).used c) :=
    Table.get_mapWithIndex _ _ _
  rw [powered, State.handOver_used, Chain.powered]
  exact if_congr decide_eq_true_iff rfl rfl

/-- A port's supply is switched on when a chain in use is joined to it, and nothing else of it changes (R209). -/
theorem State.handOver_port (p : Fin 4) : (s.handOver a octets).ports.get p =
    { s.ports.get p with supplyOn := ((s.handOver a octets).chainOnPort p).isSome } := Table.get_mapWithIndex _ _ _

theorem State.handOver_chainOnPort (p : Fin 4) : ((s.handOver a octets).chainOnPort p).isSome = true ↔
    ∃ c, 0 < a.options.tileCounts.get c ∧ a.options.crossbar.get c = p := by
  have options : (s.handOver a octets).options = a.options := rfl
  simp [State.chainOnPort, State.handOver_used, options]

end

/-- Settles O30: where an attempt begins, what the port shows of it, and the values handed over at the outcome. -/
theorem optionBlockRead : Obligations.OptionBlockRead := by
  unfold Obligations.OptionBlockRead
  refine ⟨fun response s reading few unanswered early => ?_, fun s begun length reading began long => ?_, fun s idle => ?_,
    fun octets s begun reading began due block ends later => ?_⟩
  · have start : attemptStart s.startUp.attempts = 1000 * s.startUp.attempts := Nat.mul_comm _ _
    have now : (s.arriveAt (1000 * s.startUp.attempts)).timeBase = 1000 * s.startUp.attempts := by
      rw [State.arriveAt_timeBase s _ (by simp [reading]), Nat.max_eq_right early]
    have waited : Keeps [.timeBase] s (s.arriveAt (1000 * s.startUp.attempts)) :=
      keeps_passHalves_unreleased _ (by simp [State.running, reading])
    have answer := exec_readAttempt_of_may response reading few unanswered
    rw [start] at answer
    refine ⟨_, answer, (waited.mono (by simp)).trans ((keeps_startUp _ _).mono (by simp)), now, ?_⟩
    simp [State.attempt, now]
  · obtain rfl : length = attemptLength s.startUp.answered := by
      rw [long]
      cases s.startUp.answered with
      | none => rfl
      | some j => exact (attemptLength_some j).symm
    exact ⟨State.memorySelect_reading reading began, State.memoryData_of_not_select,
      fun k => State.memoryData_reading reading began⟩
  · have released := State.memorySelect_of_idle idle
    exact ⟨released, State.memoryData_of_not_select released⟩
  · have answer := exec_readOutcome_of_outcome (StartUp.EndsReading.outcome ends reading began)
    have now : (s.arriveAt due).timeBase = due := by
      rw [State.arriveAt_timeBase s due (by simp [reading]), Nat.max_eq_right later]
    have waited : Keeps [.timeBase] s (s.arriveAt due) := keeps_passHalves_unreleased _ (by simp [State.running, reading])
    have chains : (s.arriveAt due).chains = s.chains := waited .chains (by simp)
    refine ⟨_, answer, ?_, ?_, ?_, ?_, ?_, fun c => ?_, fun p => ⟨?_, ?_⟩, ?_⟩
    · exact ((waited.mono (by simp)).trans ((keeps_handOver _ _ _).mono (by simp))).trans
        ((keeps_requestAll _ _).mono (by simp))
    · rw [State.requestAll_timeBase, State.handOver_timeBase, now]
    · rw [handOver_startUp, State.arriveAt_startUp, now]
      rfl
    · rw [handOver_neighbours, State.arriveAt_neighbours]
    · rintro y rfl
      rw [State.requestAll_settling, State.handOver_settling, State.arriveAt_settling]
    · rw [State.requestAll_chains, State.handOver_chain, chains]
    · rw [State.requestAll_ports, State.handOver_port, State.arriveAt_ports]
    · rw [State.requestAll_ports, State.handOver_port]
      exact State.handOver_chainOnPort _ _ _ p
    · rw [State.requestAll_requests, State.handOver_requests, State.arriveAt_requests, madeNow_eq, State.requestAll_timeBase]
      rfl

end Sys2Proof.Machine
end

section
/-! The cap unit: what a CAP that is heard makes of the cap record (R104 to R107). -/

namespace Sys2Proof.Machine

open Sys2Proof

/-! ### A CAP taken -/

/-- Only the ten address bits of base and mask are compared (R105). -/
theorem capMatches_iff {own : Addr} {c : CapWire} : capMatches own c = true ↔
    own.toNat &&& c.mask.toNat % 1024 = c.base.toNat % 1024 &&& c.mask.toNat % 1024 := by
  rw [capMatches, beq_iff_eq, ← BitVec.toNat_inj, BitVec.toNat_and, BitVec.toNat_and, BitVec.toNat_setWidth, BitVec.toNat_setWidth]

/-- The cap record after a CAP: removed, replaced whole, or left as it stood (R105 to R107). -/
theorem State.takeCap_record (sender : Addr) (c : CapWire) (duration : Nat) (s : State) :
    (s.takeCap sender c duration).cap.record =
      if capMatches s.ownAddress c then if duration = 0 then none else some (capRecordOf sender c duration)
      else s.cap.record := by
  rw [State.takeCap, apply_ite State.cap, apply_ite CapUnit.record]
  rfl

/-- A CAP does not touch the count of the quarter-seconds. -/
@[simp] theorem State.takeCap_countDue (sender : Addr) (c : CapWire) (duration : Nat) (s : State) :
    (s.takeCap sender c duration).cap.countDue = s.cap.countDue := by
  rw [State.takeCap, apply_ite State.cap, apply_ite CapUnit.countDue]
  exact ite_self _

/-! ### A CAP heard -/

section
variable {sender : Addr} {k : CapWire} {d : BitVec 16} {s u : State}
  (heard : s.Hears (Frame.octets ⟨.order, sender, .cap, capOctets k d⟩) u) (other : s.NotHeldBack sender)
include heard other

/-- A CAP that is heard and not held back is counted as a good frame and taken by the cap unit (R42 to R44, R105). -/
theorem State.hearCap_eq : s.hearCap sender k d = State.takeCap sender k d.toNat { u with line := s.line.afterGood } := by
  rw [← heard.countGood_eq]
  exact State.hear_other heard (Frame.octets_complete (show 9 ≤ 24 by decide)) other 3 _

theorem State.keeps_hearCap : Keeps [.line, .cap] u (s.hearCap sender k d) := by
  rw [State.hearCap_eq heard other]
  exact ((keeps_setLine s.line.afterGood u).mono (by simp)).trans ((keeps_takeCap sender k d.toNat _).mono (by simp))

theorem State.hearCap_line : (s.hearCap sender k d).line = s.line.afterGood := by
  rw [State.hearCap_eq heard other]
  exact keeps_takeCap sender k d.toNat { u with line := s.line.afterGood } .line (by simp)

theorem State.hearCap_countDue : (s.hearCap sender k d).cap.countDue = s.cap.countDue := by
  rw [State.hearCap_eq heard other, State.takeCap_countDue]
  exact congrArg CapUnit.countDue (heard.keeps .cap (by simp))

theorem State.hearCap_record : (s.hearCap sender k d).cap.record =
    if s.ownAddress.toNat &&& k.mask.toNat % 1024 = k.base.toNat % 1024 &&& k.mask.toNat % 1024 then
      if d = 0 then none else some (capRecordOf sender k d.toNat)
    else s.cap.record := by
  have address : State.ownAddress { u with line := s.line.afterGood } = s.ownAddress := heard.ownAddress_eq
  have stood : u.cap = s.cap := heard.keeps .cap (by simp)
  have zero : d.toNat = 0 ↔ d = 0 := BitVec.toNat_eq (y := 0#16).symm
  rw [State.hearCap_eq heard other, State.takeCap_record, address]
  simp only [stood, capMatches_iff, zero]

end

/-- Settles O42: setting and cancelling are one CAP heard, told apart by its duration. -/
theorem capsTaken : Obligations.CapsTaken := by
  unfold Obligations.CapsTaken
  intro sender k s u d heard other
  have kept := State.keeps_hearCap heard other
  have line := State.hearCap_line heard other
  have count := State.hearCap_countDue heard other
  have record := State.hearCap_record heard other
  refine ⟨fun setting => ⟨s.hearCap sender k d, rfl, kept, line, count, ?_⟩, fun cancel => ?_⟩
  · rwa [if_neg setting] at record
  · subst cancel
    rw [if_pos rfl] at record
    exact ⟨s.hearCap sender k 0, rfl, kept, line, count, record⟩

end Sys2Proof.Machine
end

section
/-! What a chain's operations do, part by part: the deferred record, the tile records, the chain and the requests (R118, R119, R123,
R126, R131, R133, R134, R144, R151, R196). -/

namespace Sys2Proof.Machine

open Sys2Proof

/-! ### The deferred record -/

/-- A WAITING record after an outcome; a record in another state is no concern of it (R196). -/
def Deferred.outcome (words : Option DetailWords) (d : Deferred) : Deferred := if d.state = .waiting then d.resolved words else d

/-- The query responder after the outcome of a detail read (R196). -/
def Responder.outcome (words : Option DetailWords) (r : Responder) : Responder :=
  { r with deferred := r.deferred.map (Deferred.outcome words) }

@[simp] theorem State.detailOutcome_responder (words : Option DetailWords) (s : State) :
    (s.detailOutcome words).responder = s.responder.outcome words := by
  rcases State.detailOutcome_cases words s with ⟨d, filled, waits, h⟩ | ⟨rests, h⟩ <;> rw [h]
  · simp [Responder.outcome, Deferred.outcome, filled, waits]
  · cases filled : s.responder.deferred with
    | none => rw [Responder.outcome, filled, Option.map_none, ← filled]
    | some d => rw [Responder.outcome, filled, Option.map_some, Deferred.outcome, if_neg (rests d filled), ← filled]

/-- An outcome is one of the responder alone. -/
theorem State.detailOutcome_eq_outcome (words : Option DetailWords) (s : State) :
    s.detailOutcome words = { s with responder := s.responder.outcome words } := by
  rw [State.detailOutcome_eq, State.detailOutcome_responder]

theorem Responder.outcome_of_waiting {r : Responder} {d : Deferred} (filled : r.deferred = some d) (waits : d.state = .waiting)
    (words : Option DetailWords) : (r.outcome words).deferred = some (d.resolved words) := by
  simp [Responder.outcome, Deferred.outcome, filled, waits]

theorem Responder.outcome_of_not_waiting {r : Responder} (rests : ∀ d, r.deferred = some d → d.state ≠ .waiting)
    (words : Option DetailWords) : r.outcome words = r := by
  have same : r.deferred.map (Deferred.outcome words) = r.deferred := by
    cases filled : r.deferred with
    | none => rfl
    | some d => rw [Option.map_some, Deferred.outcome, if_neg (rests d filled)]
  rw [Responder.outcome, same]

/-! ### Requests of a chain -/

section
variable (c : Fin 4) (kind : FaultKind) (action : FaultAction) (s : State)

@[simp] theorem State.chainRequest_timeBase : (s.chainRequest c kind action).timeBase = s.timeBase := rfl
@[simp] theorem State.chainRequest_chains : (s.chainRequest c kind action).chains = s.chains := rfl
@[simp] theorem State.chainRequest_requests : (s.chainRequest c kind action).requests =
    s.requests ++ [Request.made s.timeBase (kind, BitVec.ofNat 6 c.val, action)] := rfl

end

/-! ### The collector's take -/

/-- The oldest word leaves the FIFO of a chain whose register is empty (R145). -/
theorem Chain.taken_of_clear {ch : Chain} (clear : ch.register = none) : ch.taken = { ch with fifo := ch.fifo.tail } := by
  simp [Chain.taken, clear]

/-- The oldest word leaves, and the one that waits in the register enters the FIFO (R128, R145). -/
theorem Chain.taken_of_waiting {ch : Chain} {w : StatusWord} (waits : ch.register = some w) : ch.taken =
    { ch with fifo := ch.fifo.tail ++ [w], register := none, entered := ch.entered ++ [w.position], stalled := false } := by
  simp [Chain.taken, waits]

/-! ### Sweep-end reports -/

section
variable (c : Fin 4) (entered : List Nat) (s : State)

@[simp] theorem State.sweepReport_timeBase : (s.sweepReport c entered).timeBase = s.timeBase := rfl
@[simp] theorem State.sweepReport_chains : (s.sweepReport c entered).chains = s.chains := rfl
@[simp] theorem State.sweepReport_requests : (s.sweepReport c entered).requests = s.requests := rfl

/-- A sweep-end report counts the sweep at each present tile of the chain whose word did not enter the FIFO (R151). -/
theorem State.sweepReport_tile (d : Fin 4) (p : Fin 16) : (s.sweepReport c entered).collector.tiles.get (tileIndex d p) =
    if d = c ∧ (s.collector.tiles.get (tileIndex d p)).marked = true ∧ p.val ∉ entered then
      { s.collector.tiles.get (tileIndex d p) with
        sweepsSince := min ((s.collector.tiles.get (tileIndex d p)).sweepsSince + 1) 255 }
    else s.collector.tiles.get (tileIndex d p) := by
  have chain : (tileIndex d p).val / 16 = d.val := by simp only [tileIndex]; omega
  have place : (tileIndex d p).val % 16 = p.val := by simp only [tileIndex]; omega
  simp only [State.sweepReport, Table.get_mapWithIndex, chain, place, ← Fin.ext_iff, TileRecord.missed, satSucc]
  by_cases here : d = c <;> by_cases reported : p.val ∈ entered <;> simp [here, reported]

end

/-! ### The ends of operations -/

section
variable (c : Fin 4) (s : State)

theorem State.endBrightness_eq (echo : BitVec 32) : s.endBrightness c echo =
    (s.setChain c ((s.chains.get c).echoed echo)).requestAll
      ((if (s.chains.get c).missesAgain echo then [(.chainIntegrity, BitVec.ofNat 6 c.val, .raise (some 0xFFFF))] else []) ++
        [(.chainTimeout, BitVec.ofNat 6 c.val, .withdraw)]) := by
  unfold State.endBrightness
  dsimp only
  split <;> rfl

theorem State.endDetail_eq (echo : BitVec 32) (words : DetailWords) : s.endDetail c echo words =
    ((s.setChain c (s.chains.get c).finish).detailOutcome
      (if echo = selectWord (s.chains.get c).sentPosition then some words else none)).requestAll
        [(.chainTimeout, BitVec.ofNat 6 c.val, .withdraw)] := rfl

theorem State.endTest_eq (mismatches : Nat) : s.endTest c mismatches =
    (s.setChain c { (s.chains.get c).finish with lastMismatch := some mismatches }).requestAll
      [(.chainIntegrity, BitVec.ofNat 6 c.val, integrityAction s.options.testThreshold mismatches),
        (.chainTimeout, BitVec.ofNat 6 c.val, .withdraw)] := rfl

/-- The chain after an abort: IDLE, without its detail request, and with a census posted (R134). -/
def Chain.aborted (ch : Chain) : Chain := ch.clearDetail.finish.postCensus

theorem Chain.aborted_eq (ch : Chain) : ch.aborted = { ch with
    state := .idle, bitCount := 0, lead := none, wordsDone := 0, entered := [], finalArrived := false, stalled := false
    pend := { ch.pend with census := true, detail := false } } := rfl

/-- A chain has a detail request, waiting or running. -/
def Chain.hasDetail (ch : Chain) : Bool := ch.state = .detail || ch.pend.detail

theorem State.abortOperation_eq : s.abortOperation c =
    { s with
      collector := if (s.chains.get c).state = .sweep then (s.sweepReport c (s.chains.get c).entered).collector else s.collector
      responder := if (s.chains.get c).hasDetail then s.responder.outcome none else s.responder
      requests := s.requests ++ [Request.made s.timeBase (.chainTimeout, BitVec.ofNat 6 c.val,
        .raise (some (BitVec.ofNat 16 (timeoutCode (s.chains.get c).state))))]
      chains := s.chains.set c (s.chains.get c).aborted } := by
  unfold State.abortOperation Chain.hasDetail
  dsimp only
  rw [State.detailOutcome_eq_outcome]
  split <;> split <;> rfl

/-- The chain's own record, the marks, CHAIN_DOWN and the outcome of a pending detail, one after another (R123). -/
theorem State.censusDown_eq (back : Bool) : s.censusDown c back =
    { (s.setChain c ((s.chains.get c).unusable (if back then some 0 else none) (s.timeBase + Config.censusRetry))).markChain c 0 with
      requests := s.requests ++ (absenceWithdraws s c 0).map (Request.made s.timeBase) ++
        [Request.made s.timeBase (.chainDown, BitVec.ofNat 6 c.val, .raise (some (if back then 0 else 0xFFFF)))]
      responder := if (s.chains.get c).pend.detail then s.responder.outcome none else s.responder } := by
  have withdrawn := State.markChain_requests c 0
    (s.setChain c ((s.chains.get c).unusable (if back then some 0 else none) (s.timeBase + Config.censusRetry)))
  rw [absenceWithdraws_congr (s := s) (State.setChain_collector _ _ _)] at withdrawn
  unfold State.censusDown
  dsimp only
  rw [State.detailOutcome_eq_outcome]
  split <;> simp [State.chainRequest, State.request, withdrawn, Request.made, chainSource]

end

end Sys2Proof.Machine
end

section
/-! A chain's record through its events: it stays in range, and OFF as long as it was (R114, R116, R117, R126, R128, R133, R134). -/

namespace Sys2Proof.Machine

open Sys2Proof

/-! ### A record in range -/

section
variable {ch : Chain} (h : ch.Sound)
include h

/-- Only a SWEEP has a word in the register (R128). -/
theorem Chain.Sound.register_eq_none (busy : ch.state ≠ .sweep ∨ ch.stalled = false) : ch.register = none := by
  obtain ⟨-, clock, full, -⟩ := h
  by_contra word
  have stopped := clock.mpr word
  exact busy.elim (fun other => other (full stopped).1) fun runs => by simp [runs] at stopped

theorem Chain.Sound.runBits (b : Nat) : (ch.runBits b).Sound := by
  obtain ⟨fifo, clock, full, bits, rest⟩ := h
  have range := Chain.runBits_le b bits
  simp only [Chain.Sound, Chain.runBits_bitLimit, Chain.runBits_fifo, Chain.runBits_stalled, Chain.runBits_register,
    Chain.runBits_state, Chain.runBits_echoMiss, Chain.runBits_census, Chain.runBits_lastMismatch, Chain.runBits_pendingValue,
    Chain.runBits_sentValue, Chain.runBits_duty, Chain.runBits_pendingPosition, Chain.runBits_lead, Chain.runBits_wordsDone,
    Chain.runBits_selected, Chain.runBits_pend]
  exact ⟨fifo, clock, full, range, rest⟩

theorem Chain.Sound.atBit {k : Nat} (range : k ≤ ch.bitLimit) : Chain.Sound { ch with bitCount := k } := by
  obtain ⟨fifo, clock, full, -, rest⟩ := h
  exact ⟨fifo, clock, full, range, rest⟩

/-- A chain whose register is empty enters a state at bit time 0 (R116, R117). -/
theorem Chain.Sound.enter (clear : ch.register = none) {op : ChainState} (on : op ≠ .off) {selected : Option ChainState}
    (sets : (operating op = true → selected = some op) ∧ ∀ o, selected = some o → operating o = true) :
    Chain.Sound { ch.begin op with selected := selected } := by
  obtain ⟨fifo, -, -, -, echo, census, mismatch, words, position, -, -, -⟩ := h
  exact ⟨fifo, by simp [Chain.begin, clear], by simp [Chain.begin], Nat.zero_le _, echo, census, mismatch, words, position,
    by simp [Chain.begin], sets, fun off => absurd off on⟩

theorem Chain.Sound.start (clear : ch.register = none) {op : ChainState} (runs : operating op = true) : (ch.start op).Sound :=
  h.enter clear (fun off => by simp [off, operating] at runs) ⟨fun _ => rfl, fun o e => Option.some.inj e ▸ runs⟩

/-- A chain at rest shows what it last set its port's select outputs for (R114; log entry 28). -/
theorem Chain.Sound.rest (clear : ch.register = none) {op : ChainState} (on : op ≠ .off) (rests : operating op = false) :
    (ch.begin op).Sound := by
  have ⟨_, _, _, _, _, _, _, _, _, _, ⟨_, set⟩, _⟩ := h
  exact h.enter clear on ⟨fun runs => by simp [rests] at runs, set⟩

theorem Chain.Sound.finish (clear : ch.register = none) : ch.finish.Sound := h.rest clear (by simp) rfl

/-- The pending requests of a chain that is not OFF (R118). -/
theorem Chain.Sound.post (on : ch.state ≠ .off) (pend : PendingSet) {value position : Nat} (v : value ≤ 65535)
    (p : position ≤ 15) : Chain.Sound { ch with pend := pend, pendingValue := value, pendingPosition := position } := by
  obtain ⟨fifo, clock, full, bits, echo, census, mismatch, ⟨-, words⟩, -, lead, selected, -⟩ := h
  exact ⟨fifo, clock, full, bits, echo, census, mismatch, ⟨v, words⟩, p, lead, selected, fun off => absurd off on⟩

theorem Chain.Sound.pendingValue_le : ch.pendingValue ≤ 65535 := by
  obtain ⟨-, -, -, -, -, -, -, ⟨v, -⟩, -⟩ := h
  exact v

theorem Chain.Sound.pendingPosition_le : ch.pendingPosition ≤ 15 := by
  obtain ⟨-, -, -, -, -, -, -, -, p, -⟩ := h
  exact p

theorem Chain.Sound.sentValue_le : ch.sentValue ≤ 65535 := by
  obtain ⟨-, -, -, -, -, -, -, ⟨-, v, -⟩, -⟩ := h
  exact v

theorem Chain.Sound.pends (on : ch.state ≠ .off) (pend : PendingSet) : Chain.Sound { ch with pend := pend } :=
  h.post on pend h.pendingValue_le h.pendingPosition_le

theorem Chain.Sound.send {value : Nat} (v : value ≤ 65535) (position : Nat) :
    Chain.Sound { ch with sentValue := value, sentPosition := position } := by
  obtain ⟨fifo, clock, full, bits, echo, census, mismatch, ⟨pending, -, duty⟩, rest⟩ := h
  exact ⟨fifo, clock, full, bits, echo, census, mismatch, ⟨pending, v, duty⟩, rest⟩

theorem Chain.Sound.setDuty (on : ch.state ≠ .off) {value : Nat} (v : value ≤ 65535) :
    Chain.Sound { ch with duty := some value } := by
  obtain ⟨fifo, clock, full, bits, echo, census, mismatch, ⟨pending, sent, -⟩, position, lead, selected, -⟩ := h
  exact ⟨fifo, clock, full, bits, echo, census, mismatch, ⟨pending, sent, fun d e => Option.some.inj e ▸ v⟩, position, lead, selected,
    fun off => absurd off on⟩

theorem Chain.Sound.setEchoMiss {n : Nat} (range : n ≤ 255) : Chain.Sound { ch with echoMiss := n } := by
  obtain ⟨fifo, clock, full, bits, -, rest⟩ := h
  exact ⟨fifo, clock, full, bits, range, rest⟩

theorem Chain.Sound.setMismatch {n : Nat} (range : n ≤ 254) : Chain.Sound { ch with lastMismatch := some n } := by
  obtain ⟨fifo, clock, full, bits, echo, census, -, rest⟩ := h
  exact ⟨fifo, clock, full, bits, echo, census, fun m e => Option.some.inj e ▸ range, rest⟩

/-- The census count of a chain at rest that is not OFF (R122, R123). -/
theorem Chain.Sound.setCensus (on : ch.state ≠ .off) (zero : ch.bitCount = 0) {count : Option Nat} (range : ∀ n, count = some n → n ≤ 64) :
    Chain.Sound { ch with census := count } := by
  obtain ⟨fifo, clock, full, -, echo, -, mismatch, words, position, lead, selected, -⟩ := h
  exact ⟨fifo, clock, full, zero.le.trans (Nat.zero_le _), echo, range, mismatch, words, position, lead, selected,
    fun off => absurd off on⟩

/-- The chain's intervals have no range (R121). -/
theorem Chain.Sound.setDue (sweep test retry : Option Nat) :
    Chain.Sound { ch with sweepDue := sweep, testDue := test, retryDue := retry } := h

/-- The word that completes in a SWEEP whose shift clock runs (R127 to R129). -/
theorem Chain.Sound.wordDone (sweeps : ch.state = .sweep) (runs : ch.stalled = false) (present : Bool) (word : BitVec 32) (lead : Nat) :
    Chain.Sound { ch.wordDone present word with lead := some lead } := by
  have clear := h.register_eq_none (.inr runs)
  obtain ⟨fifo, -, -, bits, echo, census, mismatch, words, position, -, selected, -⟩ := h
  have on : ch.state ≠ .off := by simp [sweeps]
  have counted : ∀ (fifo' : List StatusWord) (entered : List Nat) (register : Option StatusWord) (stalled final : Bool),
      fifo'.length ≤ Config.fifoDepth → (stalled = true ↔ register ≠ none) → (stalled = true → fifo'.length = Config.fifoDepth) →
      Chain.Sound { ch with
        wordsDone := ch.wordsDone + 1, finalArrived := final, fifo := fifo', entered := entered, register := register
        stalled := stalled, lead := some lead } := fun _ _ _ _ _ range clock full =>
    ⟨range, clock, fun stopped => ⟨sweeps, full stopped⟩, bits, echo, census, mismatch, words, position,
      fun _ => ⟨sweeps, Nat.succ_pos _⟩, selected, fun off => absurd off on⟩
  unfold Chain.wordDone
  dsimp only
  split
  · exact counted _ _ _ _ _ fifo (by simp [clear, runs]) (by simp [runs])
  · split
    · next room => exact counted _ _ _ _ _ (by simpa using room) (by simp [clear, runs]) (by simp [runs])
    · next full => exact counted _ _ _ _ _ fifo (by simp) fun _ => le_antisymm fifo (Nat.le_of_not_lt full)

/-- The oldest word taken, and the one in the register let in (R128, R145). -/
theorem Chain.Sound.taken : ch.taken.Sound := by
  obtain ⟨fifo, clock, full, bits, echo, census, mismatch, words, position, lead, selected, off⟩ := h
  cases waits : ch.register with
  | none =>
    rw [Chain.taken_of_clear waits]
    have runs : ch.stalled = false := by simpa [waits] using clock
    exact ⟨(List.tail_sublist _).length_le.trans fifo, clock, fun stopped => by simp [runs] at stopped, bits, echo, census, mismatch,
      words, position, lead, selected, fun rests => by
        obtain ⟨pend, duty, none_, empty, unset⟩ := off rests
        exact ⟨pend, duty, none_, by simp [empty], unset⟩⟩
  | some w =>
    rw [Chain.taken_of_waiting waits]
    obtain ⟨sweeps, depth⟩ := full (clock.mpr (by simp [waits]))
    exact ⟨by simp [depth, Config.fifoDepth], by simp, by simp, bits, echo, census, mismatch, words, position, lead, selected,
      fun rests => by simp [sweeps] at rests⟩

end

end Sys2Proof.Machine
end

section
/-! What the rows that change a chain keep of the chains, of the tiles and of the detail requests, and one walk through all rows for
any property that depends on these alone (R114 to R134, R143, R144, R193 to R197). -/

namespace Sys2Proof.Machine

open Sys2Proof

/-! ### A chain goes on -/

/-- What every event of a chain but the end of its census does: it leaves the record in range, OFF or not as it was, DOWN only if it was,
and with its census count. -/
def Chain.Continues (ch x : Chain) : Prop :=
  (ch.Sound → x.Sound) ∧ (x.state = .off ↔ ch.state = .off) ∧ (x.state = .down → ch.state = .down) ∧ x.census = ch.census

/-- The detail request of a chain, waiting or running, is as it was. -/
def Chain.SameDetail (ch x : Chain) : Prop :=
  x.pend.detail = ch.pend.detail ∧ x.pendingPosition = ch.pendingPosition ∧ x.sentPosition = ch.sentPosition ∧
    (x.state = .detail ↔ ch.state = .detail)

/-- A chain goes on, with its detail request as it was. -/
def Chain.GoesOn (ch x : Chain) : Prop := ch.Continues x ∧ ch.SameDetail x

theorem Chain.Continues.refl (ch : Chain) : ch.Continues ch := ⟨id, Iff.rfl, id, rfl⟩

theorem Chain.Continues.trans {ch x y : Chain} (h : ch.Continues x) (k : x.Continues y) : ch.Continues y := by
  obtain ⟨sound, off, down, census⟩ := h
  obtain ⟨sound', off', down', census'⟩ := k
  exact ⟨sound' ∘ sound, off'.trans off, down ∘ down', census'.trans census⟩

theorem Chain.SameDetail.refl (ch : Chain) : ch.SameDetail ch := ⟨rfl, rfl, rfl, Iff.rfl⟩

theorem Chain.SameDetail.trans {ch x y : Chain} (h : ch.SameDetail x) (k : x.SameDetail y) : ch.SameDetail y := by
  obtain ⟨detail, waits, sent, runs⟩ := h
  obtain ⟨detail', waits', sent', runs'⟩ := k
  exact ⟨detail'.trans detail, waits'.trans waits, sent'.trans sent, runs'.trans runs⟩

theorem Chain.GoesOn.refl (ch : Chain) : ch.GoesOn ch := ⟨.refl ch, .refl ch⟩

theorem Chain.GoesOn.trans {ch x y : Chain} (h : ch.GoesOn x) (k : x.GoesOn y) : ch.GoesOn y := ⟨h.1.trans k.1, h.2.trans k.2⟩

theorem Chain.GoesOn.ite {b : Prop} [Decidable b] {ch x y : Chain} (h : b → ch.GoesOn x) (k : ¬b → ch.GoesOn y) :
    ch.GoesOn (if b then x else y) := by
  split
  · next hb => exact h hb
  · next hb => exact k hb

/-- An event that leaves the state and the census count alone. -/
theorem Chain.Continues.of_state {ch x : Chain} (sound : ch.Sound → x.Sound) (state : x.state = ch.state)
    (census : x.census = ch.census) : ch.Continues x :=
  ⟨sound, by rw [state], fun down => state ▸ down, census⟩

section
variable (ch : Chain)

theorem Chain.goesOn_runBits (b : Nat) : ch.GoesOn (ch.runBits b) :=
  ⟨.of_state (·.runBits b) (by simp) (by simp), by simp [Chain.SameDetail]⟩

theorem Chain.goesOn_atBit {k : Nat} (range : k ≤ ch.bitLimit) : ch.GoesOn { ch with bitCount := k } :=
  ⟨.of_state (·.atBit range) rfl rfl, .refl ch⟩

/-- Requests other than a detail posted, or taken (R118). -/
theorem Chain.goesOn_pend (on : ch.state ≠ .off) {pend : PendingSet} (same : pend.detail = ch.pend.detail) :
    ch.GoesOn { ch with pend := pend } :=
  ⟨.of_state (·.pends on pend) rfl rfl, same, rfl, rfl, Iff.rfl⟩

theorem Chain.goesOn_postCensus : ch.GoesOn ch.postCensus := .ite (fun _ => .refl ch) fun on => ch.goesOn_pend on rfl
theorem Chain.goesOn_postSweep : ch.GoesOn ch.postSweep := .ite (fun _ => .refl ch) fun on => ch.goesOn_pend on rfl
theorem Chain.goesOn_postTest : ch.GoesOn ch.postTest := .ite (fun _ => .refl ch) fun on => ch.goesOn_pend on rfl

theorem Chain.goesOn_due (sweep test retry : Option Nat) :
    ch.GoesOn { ch with sweepDue := sweep, testDue := test, retryDue := retry } :=
  ⟨.of_state (·.setDue sweep test retry) rfl rfl, .refl ch⟩

/-- A duty word posted (R100, R118, R140). -/
theorem Chain.goesOn_postDuty {value : Nat} (range : value ≤ 65535) : ch.GoesOn (ch.postDuty value) := by
  by_cases off : ch.state = .off
  · simpa [Chain.postDuty, off] using Chain.GoesOn.refl ch
  · rw [Chain.postDuty_eq off]
    exact ⟨.of_state (fun h => (h.post off _ range h.pendingPosition_le).setDuty off range) rfl rfl, .refl ch⟩

/-- A chain at rest starts an operation other than a detail, taking its request and what that carried (R119, R125). -/
theorem Chain.goesOn_start {op : ChainState} (rests : ch.state = .idle ∨ ch.state = .down) (runs : operating op = true)
    (other : op ≠ .detail) {pend : PendingSet} (same : pend.detail = ch.pend.detail) {value : Nat}
    (sent : value = ch.pendingValue ∨ value = ch.sentValue) :
    ch.GoesOn { ch.start op with pend := pend, sentValue := value } := by
  have on : op ≠ .off := fun off => by simp [off, operating] at runs
  have up : op ≠ .down := fun down => by simp [down, operating] at runs
  have busy : ch.state ≠ .sweep ∧ ch.state ≠ .off ∧ ch.state ≠ .detail := by rcases rests with e | e <;> simp [e]
  obtain ⟨sweep, was, detail⟩ := busy
  refine ⟨⟨fun h => ?_, iff_of_false on was, fun down => absurd down up, rfl⟩, same, rfl, rfl, iff_of_false other detail⟩
  have range : value ≤ 65535 := by
    rcases sent with rfl | rfl
    · exact h.pendingValue_le
    · exact h.sentValue_le
  exact ((h.start (h.register_eq_none (.inl sweep)) runs).pends on pend).send range ch.sentPosition

theorem Chain.goesOn_startCensus (rests : ch.state = .idle ∨ ch.state = .down) : ch.GoesOn ch.startCensus :=
  ch.goesOn_start (op := .census) (pend := { ch.pend with census := false }) rests rfl (by simp) rfl (.inr rfl)

theorem Chain.goesOn_startBrightness (rests : ch.state = .idle) : ch.GoesOn ch.startBrightness :=
  ch.goesOn_start (op := .brightness) (pend := { ch.pend with brightness := false }) (.inl rests) rfl (by simp) rfl (.inl rfl)

theorem Chain.goesOn_startSweep (rests : ch.state = .idle) : ch.GoesOn ch.startSweep :=
  ch.goesOn_start (op := .sweep) (pend := { ch.pend with sweep := false }) (.inl rests) rfl (by simp) rfl (.inr rfl)

theorem Chain.goesOn_startTest (rests : ch.state = .idle) : ch.GoesOn ch.startTest :=
  ch.goesOn_start (op := .test) (pend := { ch.pend with test := false }) (.inl rests) rfl (by simp) rfl (.inr rfl)

/-- An operation ends, other than a census, a detail or a stopped SWEEP (R117). -/
theorem Chain.goesOn_finish (on : ch.state ≠ .off) (other : ch.state ≠ .detail) (clear : ch.Sound → ch.register = none) :
    ch.GoesOn ch.finish :=
  ⟨⟨fun h => h.finish (clear h), iff_of_false (by simp [Chain.finish, Chain.begin]) on, by simp [Chain.finish, Chain.begin], rfl⟩,
    rfl, rfl, rfl, iff_of_false (by simp [Chain.finish, Chain.begin]) other⟩

theorem Chain.goesOn_echoed (runs : ch.state = .brightness) (echo : BitVec 32) : ch.GoesOn (ch.echoed echo) := by
  have ended := ch.goesOn_finish (by simp [runs]) (by simp [runs]) (·.register_eq_none (.inl (by simp [runs])))
  have missed : ∀ {n : Nat}, n ≤ 255 → ch.finish.GoesOn { ch.finish with echoMiss := n } :=
    fun range => ⟨.of_state (·.setEchoMiss range) rfl rfl, .refl _⟩
  refine .ite (fun _ => ended.trans (missed (Nat.zero_le _))) fun _ =>
    .ite (fun _ => (ended.trans (missed (satSucc_le 255 ch.echoMiss))).trans ?_) fun _ =>
      ended.trans (missed (satSucc_le 255 ch.echoMiss))
  exact ⟨.of_state (fun h => h.post (by simp [Chain.finish, Chain.begin]) _ h.sentValue_le h.pendingPosition_le) rfl rfl, .refl _⟩

theorem Chain.goesOn_tested (runs : ch.state = .test) {m : Nat} (range : m ≤ 254) :
    ch.GoesOn { ch.finish with lastMismatch := some m } :=
  (ch.goesOn_finish (by simp [runs]) (by simp [runs]) (·.register_eq_none (.inl (by simp [runs])))).trans
    ⟨.of_state (·.setMismatch range) rfl rfl, .refl _⟩

/-- A word that completes changes what the SWEEP holds, and nothing else (R127 to R129). -/
theorem Chain.wordDone_eq (present : Bool) (word : BitVec 32) : ∃ fifo entered register stalled, ch.wordDone present word =
    { ch with
      wordsDone := ch.wordsDone + 1, finalArrived := ch.wordsDone + 1 = ch.census.getD 0, fifo := fifo, entered := entered
      register := register, stalled := stalled } := by
  unfold Chain.wordDone
  dsimp only
  split
  · exact ⟨_, _, _, _, rfl⟩
  · split <;> exact ⟨_, _, _, _, rfl⟩

theorem Chain.goesOn_wordDone (sweeps : ch.state = .sweep) (runs : ch.stalled = false) (present : Bool) (word : BitVec 32)
    (lead : Nat) : ch.GoesOn { ch.wordDone present word with lead := some lead } := by
  have sound := Chain.Sound.wordDone (ch := ch) (sweeps := sweeps) (runs := runs) (present := present) (word := word) (lead := lead)
  obtain ⟨fifo, entered, register, stalled, e⟩ := ch.wordDone_eq present word
  rw [e] at sound ⊢
  exact ⟨.of_state sound rfl rfl, .refl ch⟩

theorem Chain.goesOn_taken : ch.GoesOn ch.taken := by
  have sound := Chain.Sound.taken (ch := ch)
  cases waits : ch.register with
  | none =>
    rw [Chain.taken_of_clear waits] at sound ⊢
    exact ⟨.of_state sound rfl rfl, .refl ch⟩
  | some w =>
    rw [Chain.taken_of_waiting waits] at sound ⊢
    exact ⟨.of_state sound rfl rfl, .refl ch⟩

end

/-! ### Details asked, started and failed back -/

section
variable (ch : Chain)

theorem Chain.continues_postDetail {position : Nat} (range : position ≤ 15) : ch.Continues (ch.postDetail position) := by
  unfold Chain.postDetail
  split
  · exact .refl ch
  · next free =>
    have on : ch.state ≠ .off := fun off => free (by simp [off])
    exact .of_state (fun h => h.post on _ h.pendingValue_le range) rfl rfl

theorem Chain.continues_clearDetail (on : ch.state ≠ .off) : ch.Continues ch.clearDetail :=
  .of_state (·.pends on _) rfl rfl

theorem Chain.continues_startDetail (rests : ch.state = .idle) : ch.Continues ch.startDetail := by
  refine ⟨fun h => ?_, by simp [Chain.startDetail, Chain.start, Chain.begin, rests],
    by simp [Chain.startDetail, Chain.start, Chain.begin], rfl⟩
  have started := h.start (h.register_eq_none (.inl (by simp [rests]))) (op := .detail) rfl
  exact (started.pends (by simp [Chain.start, Chain.begin]) { ch.pend with detail := false }).send h.sentValue_le ch.pendingPosition

theorem Chain.continues_finish (on : ch.state ≠ .off) (clear : ch.Sound → ch.register = none) : ch.Continues ch.finish :=
  ⟨fun h => h.finish (clear h), iff_of_false (by simp [Chain.finish, Chain.begin]) on, by simp [Chain.finish, Chain.begin], rfl⟩

theorem Chain.continues_aborted (on : ch.state ≠ .off) (runs : ch.stalled = false) : ch.Continues ch.aborted :=
  ((ch.continues_finish on (·.register_eq_none (.inr runs))).trans
    (.of_state (·.pends (by simp [Chain.finish, Chain.begin]) { ch.pend with census := true, detail := false }) rfl rfl) :)

end

/-! ### A tile goes on -/

/-- What every event of a tile but a mark does: it leaves the record in range, and marked or not as it was. -/
def TileRecord.Continues (t u : TileRecord) : Prop := (t.Sound → u.Sound) ∧ u.marked = t.marked

theorem TileRecord.Continues.refl (t : TileRecord) : t.Continues t := ⟨id, rfl⟩

theorem TileRecord.Continues.trans {t u v : TileRecord} (h : t.Continues u) (k : u.Continues v) : t.Continues v :=
  ⟨k.1 ∘ h.1, k.2.trans h.2⟩

theorem TileRecord.continues_missed (t : TileRecord) : t.Continues t.missed := by
  unfold TileRecord.missed
  split
  · next present =>
    refine ⟨fun ⟨_, _, rest⟩ => ⟨fun absent => ?_, satSucc_le _ _, rest⟩, rfl⟩
    simp [present] at absent
  · exact .refl t

theorem readingsOf_range (w : BitVec 32) :
    (readingsOf w).openCount ≤ 15 ∧ (readingsOf w).shortCount ≤ 15 ∧ (readingsOf w).temperature ≤ 255 :=
  ⟨Nat.le_of_lt_succ (BitVec.isLt _), Nat.le_of_lt_succ (BitVec.isLt _), Nat.le_of_lt_succ (BitVec.isLt _)⟩

theorem warnRun_le (o : Options) (r : Readings) (run : Nat) : warnRun o r run ≤ 2 := by
  unfold warnRun
  split
  · exact satSucc_le _ _
  · exact Nat.zero_le _

theorem TileRecord.continues_handled {t : TileRecord} (present : t.marked = true) (o : Options) (w : BitVec 32) :
    t.Continues (t.handled o (readingsOf w)) := by
  refine ⟨fun _ => ⟨fun absent => ?_, Nat.zero_le _, warnRun_le _ _ _, fun r e => ?_⟩, rfl⟩
  · simp [TileRecord.handled, present] at absent
  · cases e
    exact readingsOf_range w

/-! ### A state goes on -/

/-- The start-up unit is as it was, and every chain and every tile goes on. -/
structure Steady (s t : State) : Prop where
  startUp : t.startUp = s.startUp
  chains : ∀ c, (s.chains.get c).Continues (t.chains.get c)
  tiles : ∀ i, (s.collector.tiles.get i).Continues (t.collector.tiles.get i)

/-- The deferred record and every chain's detail request are as they were. -/
structure SameDetails (s t : State) : Prop where
  deferred : t.responder.deferred = s.responder.deferred
  chains : ∀ c, (s.chains.get c).SameDetail (t.chains.get c)

/-- The rows that neither reset, start up nor end a census, and have no bearing on details. -/
def Undisturbed (s t : State) : Prop := Steady s t ∧ SameDetails s t

theorem Steady.refl (s : State) : Steady s s := ⟨rfl, fun _ => .refl _, fun _ => .refl _⟩

theorem Steady.trans {s t u : State} (h : Steady s t) (k : Steady t u) : Steady s u :=
  ⟨k.startUp.trans h.startUp, fun c => (h.chains c).trans (k.chains c), fun i => (h.tiles i).trans (k.tiles i)⟩

theorem Undisturbed.refl (s : State) : Undisturbed s s := ⟨.refl s, rfl, fun _ => .refl _⟩

theorem Undisturbed.trans {s t u : State} (h : Undisturbed s t) (k : Undisturbed t u) : Undisturbed s u :=
  ⟨h.1.trans k.1, k.2.deferred.trans h.2.deferred, fun c => (h.2.chains c).trans (k.2.chains c)⟩

theorem Undisturbed.ite {b : Prop} [Decidable b] {s t u : State} (h : b → Undisturbed s t) (k : ¬b → Undisturbed s u) :
    Undisturbed s (if b then t else u) := by
  split
  · next hb => exact h hb
  · next hb => exact k hb

/-- Chains that go on, in rows that leave the start-up unit and the responder alone. -/
theorem Undisturbed.of_chains {s t : State} (startUp : t.startUp = s.startUp) (responder : t.responder = s.responder)
    (tiles : ∀ i, (s.collector.tiles.get i).Continues (t.collector.tiles.get i))
    (chains : ∀ c, (s.chains.get c).GoesOn (t.chains.get c)) : Undisturbed s t :=
  ⟨⟨startUp, fun c => (chains c).1, tiles⟩, by rw [responder], fun c => (chains c).2⟩

/-- What a frame leaves alone goes on. -/
theorem Keeps.steady {l : List Part} {s t : State} (h : Keeps l s t)
    (hl : Part.startUp ∉ l ∧ Part.chains ∉ l ∧ Part.collector ∉ l) : Steady s t :=
  have chains : t.chains = s.chains := h .chains hl.2.1
  have collector : t.collector = s.collector := h .collector hl.2.2
  ⟨h .startUp hl.1, fun _ => chains ▸ .refl _, fun _ => collector ▸ .refl _⟩

theorem Keeps.undisturbed {l : List Part} {s t : State} (h : Keeps l s t)
    (hl : Part.startUp ∉ l ∧ Part.chains ∉ l ∧ Part.collector ∉ l ∧ Part.responder ∉ l) : Undisturbed s t :=
  have chains : t.chains = s.chains := h .chains hl.2.1
  have responder : t.responder = s.responder := h .responder hl.2.2.2
  ⟨h.steady ⟨hl.1, hl.2.1, hl.2.2.1⟩, by rw [responder], fun _ => chains ▸ .refl _⟩

theorem undisturbed_passHalves (n : Nat) (s : State) : Undisturbed s (s.passHalves n) := by
  refine .of_chains (by simp) (by simp) (fun i => by rw [State.passHalves_collector]; exact .refl _) fun c => ?_
  rcases State.passHalves_chain n s c with e | e <;> rw [e]
  · exact .refl _
  · exact Chain.goesOn_runBits _ n

theorem undisturbed_arriveAt (t : Nat) (s : State) : Undisturbed s (s.arriveAt t) := undisturbed_passHalves _ s

theorem KeepsLater.undisturbed {l : List Part} {s t : State} (h : KeepsLater l s t)
    (hl : Part.startUp ∉ l ∧ Part.chains ∉ l ∧ Part.collector ∉ l ∧ Part.responder ∉ l) : Undisturbed s t := by
  obtain ⟨n, h⟩ := h
  exact (undisturbed_passHalves n s).trans (h.undisturbed hl)

theorem steady_setChain {c : Fin 4} {x : Chain} {s : State} (h : (s.chains.get c).Continues x) : Steady s (s.setChain c x) := by
  refine ⟨rfl, fun d => ?_, fun i => .refl _⟩
  rw [State.setChain_chains, Table.get_set]
  split
  · next here => exact here ▸ h
  · exact .refl _

theorem undisturbed_setChain {c : Fin 4} {x : Chain} {s : State} (h : (s.chains.get c).GoesOn x) : Undisturbed s (s.setChain c x) := by
  refine ⟨steady_setChain h.1, rfl, fun d => ?_⟩
  rw [State.setChain_chains, Table.get_set]
  split
  · next here => exact here ▸ h.2
  · exact .refl _

theorem undisturbed_requestAll (rs : List (FaultKind × Source × FaultAction)) (s : State) : Undisturbed s (s.requestAll rs) :=
  (keeps_requestAll rs s).undisturbed (by simp)

/-- An operation's bit reached, within its limit (R122, R134). -/
theorem undisturbed_reachBit {c : Fin 4} {k : Nat} {s : State} (range : k ≤ (s.chains.get c).bitLimit) :
    Undisturbed s (s.reachBit c k) := by
  refine (undisturbed_passHalves _ s).trans (undisturbed_setChain (Chain.goesOn_atBit _ ?_))
  rw [State.passHalves_chain_eq]
  exact range

/-- The state of the chain whose bit is reached. -/
@[simp] theorem State.reachBit_chainState (c : Fin 4) (k : Nat) (s : State) :
    ((s.reachBit c k).chains.get c).state = (s.chains.get c).state := by rw [State.reachBit_self]

theorem steady_detailOutcome (words : Option DetailWords) (s : State) : Steady s (s.detailOutcome words) :=
  (keeps_detailOutcome words s).steady (by simp)

theorem undisturbed_sweepReport (c : Fin 4) (entered : List Nat) (s : State) : Undisturbed s (s.sweepReport c entered) := by
  refine .of_chains rfl rfl (fun i => ?_) fun _ => .refl _
  simp only [State.sweepReport, Table.get_mapWithIndex]
  split
  · exact TileRecord.continues_missed _
  · exact .refl _

theorem undisturbed_setTile {i : Fin 64} {t : TileRecord} {s : State} (h : (s.collector.tiles.get i).Continues t) :
    Undisturbed s (s.setTile i t) := by
  refine .of_chains rfl rfl (fun j => ?_) fun _ => .refl _
  rw [State.setTile_collector, Table.get_set]
  split
  · next here => exact here ▸ h
  · exact .refl _

/-! ### The operations -/

theorem undisturbed_endBrightness {c : Fin 4} {s : State} (runs : (s.chains.get c).state = .brightness) (echo : BitVec 32) :
    Undisturbed s (s.endBrightness c echo) := by
  rw [State.endBrightness_eq]
  exact (undisturbed_setChain (Chain.goesOn_echoed _ runs echo)).trans (undisturbed_requestAll _ _)

theorem mismatchCount_le (returned : BitVec 254) : mismatchCount returned ≤ 254 :=
  List.count_le_length.trans (by rw [List.length_zipWith, returnedBits, List.length_map, List.length_range]; exact Nat.min_le_right _ _)

theorem undisturbed_endTest {c : Fin 4} {s : State} (runs : (s.chains.get c).state = .test) (returned : BitVec 254) :
    Undisturbed s (s.endTest c (mismatchCount returned)) := by
  rw [State.endTest_eq]
  exact (undisturbed_setChain (Chain.goesOn_tested _ runs (mismatchCount_le returned))).trans (undisturbed_requestAll _ _)

theorem undisturbed_handleWord (c : Fin 4) (w : StatusWord) (s : State) : Undisturbed s (s.handleWord c w) := by
  unfold State.handleWord
  split
  · exact .ite (fun present => (undisturbed_setTile (TileRecord.continues_handled present _ _)).trans (undisturbed_requestAll _ _))
      fun _ => .refl s
  · exact .refl s

theorem undisturbed_take (c : Fin 4) (s : State) : Undisturbed s (s.take c) := by
  have moved : ∀ (pointer : Fin 4) (last : Option Nat) (t : State),
      Undisturbed t { t with collector := { t.collector with pointer := pointer, lastTake := last } } :=
    fun _ _ _ => .of_chains rfl rfl (fun _ => .refl _) fun _ => .refl _
  have taken := (undisturbed_setChain (s := s) (Chain.goesOn_taken (s.chains.get c))).trans (moved (c + 1) (some s.timeBase) _)
  unfold State.take
  dsimp only
  split
  · exact taken
  · exact taken.trans (undisturbed_handleWord c _ _)

theorem undisturbed_pass (d : Nat) (s : State) : Undisturbed s (s.pass d) := by
  refine .of_chains rfl rfl (fun _ => .refl _) fun c => ?_
  rw [State.pass_chain]
  exact .ite (fun _ => Chain.goesOn_postDuty _ (dutyOf_le _ _ _ _)) fun _ => .refl _

theorem steady_endDetail {c : Fin 4} {s : State} (runs : (s.chains.get c).state = .detail) (echo : BitVec 32) (words : DetailWords) :
    Steady s (s.endDetail c echo words) := by
  rw [State.endDetail_eq]
  exact ((steady_setChain (Chain.continues_finish _ (by simp [runs]) (·.register_eq_none (.inl (by simp [runs]))))).trans
    (steady_detailOutcome _ _)).trans (undisturbed_requestAll _ _).1

theorem Chain.mayTimeOut_iff {ch : Chain} : ch.mayTimeOut = true ↔
    (ch.state = .brightness ∨ ch.state = .sweep ∨ ch.state = .detail ∨ ch.state = .test) ∧ ch.stalled = false ∧
      ch.finalArrived = false := by
  simp [Chain.mayTimeOut, timedOperation, and_assoc, or_assoc]

theorem Chain.on_of_mayTimeOut {ch : Chain} (h : ch.mayTimeOut = true) : ch.state ≠ .off := by
  obtain ⟨runs, -⟩ := Chain.mayTimeOut_iff.mp h
  intro off
  simp [off] at runs

theorem steady_abortOperation {c : Fin 4} {s : State} (may : (s.chains.get c).mayTimeOut = true) :
    Steady s (s.abortOperation c) := by
  obtain ⟨-, runs, -⟩ := Chain.mayTimeOut_iff.mp may
  have chain := steady_setChain (s := s) (Chain.continues_aborted _ (Chain.on_of_mayTimeOut may) runs)
  rw [State.abortOperation_eq]
  refine ⟨rfl, chain.chains, fun i => ?_⟩
  dsimp only
  split
  · exact (undisturbed_sweepReport c _ s).1.tiles i
  · exact .refl _

theorem steady_postDetail (c : Fin 4) {position : Nat} (range : position ≤ 15) (s : State) : Steady s (s.postDetail c position) := by
  unfold State.postDetail
  split
  · exact steady_detailOutcome _ _
  · exact steady_setChain (Chain.continues_postDetail _ range)

theorem steady_firstAsk (q : Query) (i : Fin 64) (s : State) : Steady s (s.firstAsk q i) := by
  unfold State.firstAsk
  dsimp only
  split
  · exact (keeps_reply _ _ _ s).steady (by simp)
  · exact (((keeps_setDeferred (some ⟨q.asker, i.val, .waiting, 0⟩) s).steady (by simp)).trans
      (steady_postDetail _ (by omega) _)).trans ((keeps_reply _ _ _ _).steady (by simp))

end Sys2Proof.Machine
end

section
/-! One walk through all rows, for any property of a state that depends only on the start-up unit, the chains, the tiles and the
deferred record: the three invariants of Chapters 7, 8 and 10 are instances of it. -/

namespace Sys2Proof.Machine

open Sys2Proof

/-- What such a property has to bear, operation by operation, for every row to keep it. -/
structure ChainRules (P : State → Prop) : Prop where
  held : ∀ sources cause pending, P (State.held sources cause pending)
  reading : ∀ {s t}, P s → s.startUp.phase = .resetHeld ∨ s.startUp.phase = .reading → t.startUp.phase = .reading →
    t.startUp.applied = s.startUp.applied → t.chains = s.chains → t.collector = s.collector → t.responder = s.responder → P t
  handOver : ∀ {s}, P s → s.startUp.phase = .reading → ∀ own block octets, P (s.handOver (appliedOf own block) octets)
  release : ∀ {s}, P s → s.startUp.phase = .powering → P s.release
  undisturbed : ∀ {s t}, P s → Undisturbed s t → P t
  startDetail : ∀ {s} c, P s → (s.chains.get c).state = .idle → (s.chains.get c).pend.detail = true →
    P (s.setChain c (s.chains.get c).startDetail)
  refuseDetail : ∀ {s} c, P s → (s.chains.get c).state = .idle → (s.chains.get c).pend.detail = true →
    P ((s.setChain c (s.chains.get c).clearDetail).detailOutcome none)
  censusUsable : ∀ {s} c n, P s → s.running = true → (s.chains.get c).state = .census → n ≤ 64 → P (s.censusUsable c n)
  censusDown : ∀ {s} c back, P s → s.running = true → (s.chains.get c).state = .census → P (s.censusDown c back)
  endDetail : ∀ {s} c echo words, P s → (s.chains.get c).state = .detail → P (s.endDetail c echo words)
  abort : ∀ {s} c, P s → (s.chains.get c).mayTimeOut = true → P (s.abortOperation c)
  firstAsk : ∀ {s} q i, P s → s.running = true → s.responder.deferred = none → P (s.firstAsk q i)
  askAgain : ∀ {s} q d, P s → s.responder.deferred = some d → P (s.askAgain q d)
  aged : ∀ {s} due, P s → P { s with responder := ⟨s.responder.deferred.bind Deferred.aged, due⟩ }

/-- A property that bears whatever leaves the start-up unit alone and lets the chains and the tiles go on; it does not concern details. -/
theorem ChainRules.of_steady {P : State → Prop}
    (held : ∀ sources cause pending, P (State.held sources cause pending))
    (reading : ∀ {s t}, P s → s.startUp.phase = .resetHeld ∨ s.startUp.phase = .reading → t.startUp.phase = .reading →
      t.startUp.applied = s.startUp.applied → t.chains = s.chains → t.collector = s.collector → P t)
    (handOver : ∀ {s}, P s → s.startUp.phase = .reading → ∀ own block octets, P (s.handOver (appliedOf own block) octets))
    (release : ∀ {s}, P s → s.startUp.phase = .powering → P s.release)
    (steady : ∀ {s t}, P s → Steady s t → P t)
    (censusUsable : ∀ {s} c n, P s → s.running = true → (s.chains.get c).state = .census → n ≤ 64 → P (s.censusUsable c n))
    (censusDown : ∀ {s} c back, P s → s.running = true → (s.chains.get c).state = .census → P (s.censusDown c back)) :
    ChainRules P where
  held := held
  reading inv before phase applied chains collector _ := reading inv before phase applied chains collector
  handOver := handOver
  release := release
  undisturbed inv on := steady inv on.1
  startDetail _ inv rests _ := steady inv (steady_setChain (Chain.continues_startDetail _ rests))
  refuseDetail _ inv rests _ :=
    steady inv ((steady_setChain (Chain.continues_clearDetail _ (by simp [rests]))).trans (steady_detailOutcome _ _))
  censusUsable := censusUsable
  censusDown := censusDown
  endDetail _ echo words inv runs := steady inv (steady_endDetail runs echo words)
  abort _ inv may := steady inv (steady_abortOperation may)
  firstAsk q i inv _ _ := steady inv (steady_firstAsk q i _)
  askAgain q d inv _ := steady inv ((keeps_askAgain q d _).steady (by simp))
  aged _ inv := steady inv ((keeps_responder _ _).steady (by simp))

/-! ### Conditions of rows -/

/-- A row whose condition may fail, in which case it changes nothing (log entry 1). -/
theorem property_ite {P : State → Prop} {b : Prop} [Decidable b] {s t : State} (inv : P s) (h : b → P t) : P (if b then t else s) := by
  split
  · next hb => exact h hb
  · exact inv

theorem State.runs_iff {s : State} {c : Fin 4} {op : ChainState} {k : Nat} : s.runs c op k = true ↔
    s.running = true ∧ (s.chains.get c).state = op ∧ k ≤ (s.chains.get c).bitLimit := by
  simp [State.runs, and_assoc]

theorem Chain.bitLimit_of_census {ch : Chain} (h : ch.state = .census) : ch.bitLimit = 64 := by simp [Chain.bitLimit, h]

section
variable {P : State → Prop} (rules : ChainRules P)
include rules

/-! ### Starting operations -/

theorem ChainRules.startHighest {s : State} (inv : P s) (c : Fin 4) : P (s.startHighest c) := by
  have start : ∀ {x : Chain}, (s.chains.get c).GoesOn x → P (s.setChain c x) :=
    fun on => rules.undisturbed inv (undisturbed_setChain on)
  rcases State.startHighest_cases c s with h | ⟨rests, -, h⟩ | ⟨rests, -, ⟨-, h⟩ | ⟨-, asked, ⟨-, h⟩ | ⟨-, h⟩⟩ |
    ⟨-, -, ⟨-, h⟩ | ⟨-, -, h⟩⟩⟩ <;> rw [h]
  · exact inv
  · exact start (Chain.goesOn_startCensus _ rests)
  · exact start (Chain.goesOn_startBrightness _ rests)
  · exact rules.startDetail c inv rests asked
  · exact rules.refuseDetail c inv rests asked
  · exact start (Chain.goesOn_startSweep _ rests)
  · exact start (Chain.goesOn_startTest _ rests)

theorem ChainRules.startAll {s : State} (inv : P s) (cs : List (Fin 4)) : P (cs.foldl (fun t c => t.startHighest c) s) := by
  induction cs generalizing s with
  | nil => exact inv
  | cons c rest ih => exact ih (rules.startHighest inv c)

/-! ### Frames heard -/

theorem ChainRules.answerTileDetail {s : State} (inv : P s) (run : s.running = true) (q : Query) : P (s.answerTileDetail q) := by
  unfold State.answerTileDetail
  split
  · split
    · next none_ => exact rules.firstAsk q _ inv run none_
    · next d filled => exact rules.askAgain q d inv filled
  · exact rules.undisturbed inv ((keeps_answerBadItem q s).undisturbed (by simp))

theorem ChainRules.answer {s : State} (inv : P s) (run : s.running = true) (q : Query) : P (s.answer q) := by
  have reply : ∀ {t}, Keeps [.line] s t → P t := fun keeps => rules.undisturbed inv (keeps.undisturbed (by simp))
  unfold State.answer
  split
  · exact reply (keeps_answerFaults q s)
  · exact reply (keeps_answerTile q s)
  · exact rules.answerTileDetail inv run q
  · exact reply (keeps_answerView q s)
  · exact reply (keeps_answerLevels q s)
  · exact reply (keeps_answerChain q s)
  · exact reply (keeps_answerLine q s)
  · exact reply (keeps_answerBadItem q s)

theorem ChainRules.handOn {s : State} (inv : P s) (run : s.running = true) (kind : BitVec 4) (sender : Addr) (payload : List Octet) :
    P (s.handOn kind sender payload) := by
  unfold State.handOn
  split
  · split
    · exact rules.undisturbed inv ((keeps_takeBeacon _ _ s).undisturbed (by simp))
    · exact inv
  · split
    · exact rules.undisturbed inv ((keeps_takeCap _ _ _ s).undisturbed (by simp))
    · exact inv
  · split
    · split
      · exact rules.answer inv run _
      · exact inv
    · exact inv
  · exact inv

/-- A frame is heard only while the part runs, and what it is handed on to keeps the property then. -/
theorem ChainRules.hear {s : State} (inv : P s) (octets : List Octet) (kind : BitVec 4) (sender : Addr) {take : State → State}
    (taken : ∀ {t}, P t → t.running = true → P (take t)) : P (s.hear octets kind sender take) := by
  cases run : s.running
  · rw [State.hear_of_not_running run]
    exact inv
  rcases State.hear_cases octets kind sender take s with ⟨-, e⟩ | ⟨w, -, e⟩
  · rw [e]
    exact inv
  · have counted : Undisturbed s (s.arriveWith w).countGood :=
      ((undisturbed_arriveAt _ s).trans ((keeps_arriveWith w s).undisturbed (by simp))).trans
        ((keeps_countGood _).undisturbed (by simp))
    rcases e with ⟨-, -, e⟩ | ⟨-, e⟩ <;> rw [e]
    · exact rules.undisturbed inv (counted.trans ((keeps_clash _ _).undisturbed (by simp)))
    · refine taken (rules.undisturbed inv counted) ?_
      rw [State.running, counted.1.startUp]
      exact run

theorem ChainRules.hearQuery {s : State} (inv : P s) (q : Query) {respond : State → State}
    (answered : ∀ {t}, P t → t.running = true → P (respond t)) : P (s.hearQuery q respond) :=
  rules.hear inv _ _ _ fun inv run => by
    split
    · exact answered inv run
    · exact inv

/-! ### The rows -/

theorem ChainRules.exec {c : Instr} {s t : State} (inv : P s) (h : exec c s = .next t) : P t := by
  cases c with
  | resetAssert w => cases h; exact rules.held _ _ _
  | resetEnd straps =>
    cases h
    exact property_ite inv fun held => rules.reading inv (.inl held) rfl rfl rfl rfl rfl
  | readAttempt response =>
    rcases exec_readAttempt h with rfl | ⟨reading, rfl⟩
    · exact inv
    · have arrived := rules.undisturbed inv (undisturbed_arriveAt (attemptStart s.startUp.attempts) s)
      exact rules.reading arrived (.inr (by simpa using reading)) (by simpa [State.attempt] using reading) rfl rfl rfl rfl
  | readOutcome octets =>
    rcases exec_readOutcome h with rfl | ⟨n, block, reading, rfl⟩
    · exact inv
    · have arrived := rules.undisturbed inv (undisturbed_arriveAt n s)
      exact rules.undisturbed (rules.handOver arrived (by simpa using reading) _ _ _) (undisturbed_requestAll _ _)
  | settlingWaitExpiry =>
    rcases exec_settlingWaitExpiry h with rfl | ⟨powering, rfl⟩
    · exact inv
    · have arrived := rules.undisturbed inv (undisturbed_arriveAt (s.startUp.waitEnd.getD 0) s)
      exact rules.startAll (rules.release arrived (by simpa using powering)) _
  | frameReceived kind sender payload =>
    cases h
    split
    · exact rules.hear inv _ _ _ fun inv run => rules.handOn inv run _ _ _
    · exact rules.undisturbed inv ((keepsLater_discard _ s).undisturbed (by simp))
  | queryBadItem => cases h; exact rules.hearQuery inv _ fun inv run => rules.answer inv run _
  | tileDetail => cases h; exact rules.hearQuery inv _ fun inv run => rules.answerTileDetail inv run _
  | settlingPass =>
    cases h
    split
    · exact inv
    · exact rules.undisturbed inv ((undisturbed_arriveAt _ s).trans (undisturbed_pass _ _))
  | operationStart c => cases h; exact property_ite inv fun _ => rules.startHighest inv c
  | censusComplete c lead =>
    cases h
    refine property_ite inv fun runs => ?_
    obtain ⟨run, census⟩ : s.running = true ∧ (s.chains.get c).state = .census := by simpa using runs
    have reached : ∀ {k}, k ≤ 64 → P (s.reachBit c k) ∧ (s.reachBit c k).running = true ∧
        ((s.reachBit c k).chains.get c).state = .census := fun range =>
      have bit := undisturbed_reachBit (range.trans_eq (Chain.bitLimit_of_census census).symm)
      ⟨rules.undisturbed inv bit, by rw [State.running, bit.1.startUp]; exact run, by simpa using census⟩
    split
    · next usable =>
      have range : lead ≤ 64 := by simp at usable; omega
      obtain ⟨inv, run, census⟩ := reached range
      exact rules.censusUsable c lead inv run census range
    · obtain ⟨inv, run, census⟩ := reached (Nat.min_le_right lead 64)
      exact rules.censusDown c _ inv run census
  | censusUnusable c back =>
    cases h
    refine property_ite inv fun runs => ?_
    obtain ⟨run, census⟩ : s.running = true ∧ (s.chains.get c).state = .census := by simpa using runs
    have bit := undisturbed_reachBit (s := s) (c := c) (k := if back then 0 else 64)
      (by rw [Chain.bitLimit_of_census census]; split <;> omega)
    refine rules.censusDown c back (rules.undisturbed inv bit) ?_ (by simpa using census)
    rw [State.running, bit.1.startUp]
    exact run
  | brightnessComplete c lead echo =>
    cases h
    refine property_ite inv fun runs => ?_
    obtain ⟨-, state, range⟩ := State.runs_iff.mp runs
    exact rules.undisturbed inv ((undisturbed_reachBit range).trans (undisturbed_endBrightness (by simpa using state) _))
  | statusWordComplete c lead word =>
    cases h
    refine property_ite inv fun runs => ?_
    obtain ⟨runs, awaits⟩ := Bool.and_eq_true_iff.mp runs
    obtain ⟨-, state, range⟩ := State.runs_iff.mp runs
    obtain ⟨clock, -⟩ := Bool.and_eq_true_iff.mp awaits
    refine rules.undisturbed inv ((undisturbed_reachBit range).trans (undisturbed_setChain (Chain.goesOn_wordDone _ ?_ ?_ _ _ _)))
    · simpa using state
    · rw [State.reachBit_self]
      simpa using clock
  | sweepComplete c =>
    cases h
    refine property_ite inv fun runs => ?_
    simp only [Bool.and_eq_true, decide_eq_true_eq, Option.isNone_iff_eq_none] at runs
    obtain ⟨⟨⟨-, state⟩, -⟩, clear⟩ := runs
    exact rules.undisturbed inv (((undisturbed_sweepReport c _ s).trans (undisturbed_setChain
      (Chain.goesOn_finish _ (by simp [state]) (by simp [state]) fun _ => clear))).trans
        ((keeps_chainRequest _ _ _ _).undisturbed (by simp)))
  | detailComplete c lead echo words =>
    cases h
    refine property_ite inv fun runs => ?_
    obtain ⟨-, state, range⟩ := State.runs_iff.mp runs
    exact rules.endDetail c echo words (rules.undisturbed inv (undisturbed_reachBit range)) (by simpa using state)
  | testComplete c lead returned =>
    cases h
    refine property_ite inv fun runs => ?_
    obtain ⟨-, state, range⟩ := State.runs_iff.mp runs
    exact rules.undisturbed inv ((undisturbed_reachBit range).trans (undisturbed_endTest (by simpa using state) _))
  | operationTimeout c =>
    cases h
    refine property_ite inv fun runs => ?_
    obtain ⟨-, may⟩ := Bool.and_eq_true_iff.mp runs
    refine rules.abort c (rules.undisturbed inv (undisturbed_reachBit le_rfl)) ?_
    rw [State.reachBit_self]
    exact may
  | sweepPeriodExpiry c =>
    cases h
    split
    · exact inv
    · exact rules.undisturbed inv ((undisturbed_arriveAt _ s).trans
        (undisturbed_setChain ((Chain.goesOn_postSweep _).trans (Chain.goesOn_due _ _ _ _))))
  | testPeriodExpiry c =>
    cases h
    split
    · exact inv
    · exact rules.undisturbed inv ((undisturbed_arriveAt _ s).trans
        (undisturbed_setChain ((Chain.goesOn_postTest _).trans (Chain.goesOn_due _ _ _ _))))
  | censusRetryExpiry c =>
    cases h
    split
    · exact inv
    · exact rules.undisturbed inv ((undisturbed_arriveAt _ s).trans
        (undisturbed_setChain ((Chain.goesOn_postCensus _).trans (Chain.goesOn_due _ _ _ _))))
  | collectorTake =>
    cases h
    refine property_ite inv fun _ => ?_
    split
    · exact rules.undisturbed inv ((undisturbed_arriveAt _ s).trans (undisturbed_take _ _))
    · exact inv
  | deferredReadyAging =>
    cases h
    split
    · exact inv
    · exact rules.aged _ (rules.undisturbed inv (undisturbed_arriveAt _ s))
  | _ => exact rules.undisturbed inv ((exec_keepsLater h).undisturbed (by simp [changes]))

theorem ChainRules.keptByStep : KeptByStep P :=
  keptByStep_of_exec (fun _ _ inv => rules.undisturbed inv (.of_chains rfl rfl (fun _ => .refl _) fun _ => .refl _))
    (fun s inv => rules.undisturbed inv (undisturbed_passHalves _ s)) fun _ _ _ inv h => rules.exec inv h

end

end Sys2Proof.Machine
end

section
/-! Every step keeps the chains in range, and a chain OFF exactly when it is not used (R114, R116, R117, R126, R128, R133, R134). -/

namespace Sys2Proof.Machine

open Sys2Proof

/-! ### The start and the ends of a census -/

section
variable {ch : Chain} (h : ch.Sound)
include h

/-- A chain OFF that the values applied use is IDLE with its census posted (R142, R209). -/
theorem Chain.Sound.powered (off : ch.state = .off) (used : Bool) : (ch.powered used).Sound := by
  unfold Chain.powered
  split
  · obtain ⟨fifo, clock, full, bits, echo, census, mismatch, words, position, lead, -, rests⟩ := h
    have zero : ch.bitCount ≤ 0 := by simpa [Chain.bitLimit, timedOperation, off] using bits
    obtain ⟨-, -, -, -, unset⟩ := rests off
    exact ⟨fifo, clock, fun stopped => absurd (full stopped).1 (by simp [off]), zero.trans (Nat.zero_le _), echo, census, mismatch,
      words, position, fun arrived => absurd (lead arrived).1 (by simp [off]), by simp [operating, unset], by simp⟩
  · exact h

theorem Chain.Sound.usable (runs : ch.state = .census) {n : Nat} (range : n ≤ 64) : (ch.usable n).Sound := by
  have value : ch.duty.getD ch.pendingValue ≤ 65535 := by
    cases duty : ch.duty with
    | none => exact h.pendingValue_le
    | some d =>
      obtain ⟨-, -, -, -, -, -, -, ⟨-, -, dutyRange⟩, -⟩ := h
      exact dutyRange d duty
  rw [Chain.usable_eq]
  exact ((h.finish (h.register_eq_none (.inl (by simp [runs])))).post (by simp [Chain.finish, Chain.begin]) _ value
    h.pendingPosition_le).setCensus (by simp [Chain.finish, Chain.begin]) rfl fun m e => Option.some.inj e ▸ range

theorem Chain.Sound.unusable (runs : ch.state = .census) (back : Bool) (retry : Nat) :
    (ch.unusable (if back then some 0 else none) retry).Sound := by
  have down : (ch.begin .down).Sound := h.rest (h.register_eq_none (.inl (by simp [runs]))) (by simp) rfl
  have refused := down.pends (by simp [Chain.begin]) { ch.pend with detail := false }
  have counted := refused.setCensus (count := if back then some 0 else none) (by simp [Chain.begin]) rfl fun n e => by
    split at e <;> cases e
    exact Nat.zero_le _
  exact counted.setDue _ _ _

end

/-! ### The chains of a state -/

/-- A chain is used when the values applied say so (R114). -/
theorem State.used_congr {s t : State} (h : t.startUp.applied = s.startUp.applied) (c : Fin 4) : t.used c = s.used c := by
  unfold State.used
  rw [h]

/-- Chains of which one is set, in range and not OFF, and the others stay as they were. -/
theorem ChainsSound.set {s t : State} (h : ChainsSound s) {c : Fin 4} {x : Chain} (sound : x.Sound)
    (on : (s.chains.get c).state ≠ .off) (on' : x.state ≠ .off) (startUp : t.startUp = s.startUp)
    (chains : t.chains = s.chains.set c x) : ChainsSound t := by
  obtain ⟨early, h⟩ := h
  refine ⟨by rwa [AppliedAfterReading, startUp], fun d => ?_⟩
  rw [State.used_congr (s := s) (by rw [startUp]), chains, Table.get_set]
  obtain ⟨was, off⟩ := h d
  split
  · next here =>
    subst here
    exact ⟨sound, iff_of_false on' (mt off.mpr on)⟩
  · exact ⟨was, off⟩

theorem chainsSound_rules : ChainRules ChainsSound := by
  refine .of_steady chainsSound_held ?reading ?handOver ?release ?steady ?censusUsable ?censusDown
  case reading =>
    intro s t ⟨early, h⟩ before _ applied chains _
    refine ⟨fun _ => applied.trans (early before), fun c => ?_⟩
    rw [chains, State.used_congr applied]
    exact h c
  case handOver =>
    intro s ⟨early, h⟩ reading own block octets
    have unused : ∀ c, s.used c = false := fun c => by simp [State.used, early (.inr reading)]
    refine ⟨fun late => by simp [State.handOver] at late, fun c => ?_⟩
    obtain ⟨sound, off⟩ := h c
    have rests := off.mpr (unused c)
    have chain : (s.handOver (appliedOf own block) octets).chains.get c =
        (s.chains.get c).powered ((s.handOver (appliedOf own block) octets).used c) := Table.get_mapWithIndex _ _ _
    rw [chain]
    refine ⟨sound.powered rests _, ?_⟩
    cases used : (s.handOver (appliedOf own block) octets).used c <;> simp [Chain.powered, rests]
  case release =>
    intro s ⟨_, h⟩ _
    refine ⟨fun late => by simp [State.release] at late, fun c => ?_⟩
    obtain ⟨sound, off⟩ := h c
    rw [State.release_used, State.release_chain]
    split
    · exact ⟨sound.setDue _ _ _, off⟩
    · exact ⟨sound, off⟩
  case steady =>
    intro s t ⟨early, h⟩ on
    refine ⟨by rwa [AppliedAfterReading, on.startUp], fun c => ?_⟩
    obtain ⟨range, state, -, -⟩ := on.chains c
    obtain ⟨sound, off⟩ := h c
    exact ⟨range sound, by rw [State.used_congr (s := s) (by rw [on.startUp]), state, off]⟩
  case censusUsable =>
    intro s c n inv _ census range
    obtain ⟨sound, -⟩ := inv.2 c
    rw [State.censusUsable_eq]
    exact inv.set (c := c) (sound.usable census range) (by simp [census]) (by simp [Chain.usable_eq]) (by simp) (by simp)
  case censusDown =>
    intro s c back inv _ census
    obtain ⟨sound, -⟩ := inv.2 c
    rw [State.censusDown_eq]
    exact inv.set (c := c) (sound.unusable census back (s.timeBase + Config.censusRetry)) (by simp [census])
      (by simp [Chain.unusable, Chain.begin]) (by simp) (by simp)

/-- Settles O13: every chain goes on in range through each row, and only the outcome of READING makes one used. -/
theorem stepKeepsChainsSound : Obligations.StepKeepsChainsSound := by
  unfold Obligations.StepKeepsChainsSound
  exact chainsSound_rules.keptByStep

end Sys2Proof.Machine
end

section
/-! Every step keeps the marks of the tiles with the census counts of their chains (R123, R124, R143, R144). -/

namespace Sys2Proof.Machine

open Sys2Proof

/-! ### Marks -/

theorem State.marked_of_lt {s : State} {c : Fin 4} {p : Nat} (h : p < 16) :
    s.marked c p = (s.collector.tiles.get (tileIndex c ⟨p, h⟩)).marked := by simp [State.marked, State.tileAt, h]

theorem State.marked_of_ge {s : State} {c : Fin 4} {p : Nat} (h : 16 ≤ p) : s.marked c p = false := by
  simp [State.marked, State.tileAt, Nat.not_lt.mpr h]

/-- A chain's marks are those of its tile records. -/
theorem State.marked_congr {s t : State} {c : Fin 4} (h : ∀ q, (t.collector.tiles.get (tileIndex c q)).marked =
    (s.collector.tiles.get (tileIndex c q)).marked) (p : Nat) : t.marked c p = s.marked c p := by
  rcases Nat.lt_or_ge p 16 with inside | outside
  · rw [State.marked_of_lt inside, State.marked_of_lt inside, h]
  · rw [State.marked_of_ge outside, State.marked_of_ge outside]

theorem exists_tileIndex (i : Fin 64) : ∃ c p, i = tileIndex c p :=
  ⟨⟨i.val / 16, by omega⟩, ⟨i.val % 16, by omega⟩, by simp only [tileIndex, Fin.ext_iff]; omega⟩

theorem TileRecord.Sound.afterMark {t : TileRecord} (h : t.Sound) (present : Bool) : (t.afterMark present).Sound := by
  unfold TileRecord.afterMark
  split
  · exact h
  · refine ⟨fun absent => ?_, by simp [TileRecord.reset], by simp [TileRecord.reset], by simp [TileRecord.reset]⟩
    change present = false at absent
    rw [absent]
    rfl

theorem TileRecord.afterMark_marked (present : Bool) (t : TileRecord) : (t.afterMark present).marked = present := by
  unfold TileRecord.afterMark
  split
  · assumption
  · rfl

/-- A chain's tiles are marked, its first `n` present and its others absent, and the other chains' tiles stay as they were (R144). -/
def Marked (c : Fin 4) (n : Nat) (s t : State) : Prop :=
  ∀ d q, t.collector.tiles.get (tileIndex d q) =
    if d = c then (s.collector.tiles.get (tileIndex d q)).afterMark (q.val < n) else s.collector.tiles.get (tileIndex d q)

section
variable {c : Fin 4} {n : Nat} {s t : State} (h : Marked c n s t)
include h

theorem Marked.sound (sound : ∀ i, (s.collector.tiles.get i).Sound) (i : Fin 64) : (t.collector.tiles.get i).Sound := by
  obtain ⟨d, q, rfl⟩ := exists_tileIndex i
  rw [h d q]
  split
  · exact (sound _).afterMark _
  · exact sound _

theorem Marked.marked_iff (range : n ≤ 16) (p : Nat) : t.marked c p = true ↔ p < n := by
  rcases Nat.lt_or_ge p 16 with inside | outside
  · rw [State.marked_of_lt inside, h, if_pos rfl, TileRecord.afterMark_marked, decide_eq_true_iff]
  · rw [State.marked_of_ge outside]
    exact iff_of_false Bool.false_ne_true (by omega)

theorem Marked.marked_other {d : Fin 4} (other : d ≠ c) : ∀ p, t.marked d p = s.marked d p :=
  State.marked_congr fun q => by rw [h, if_neg other]

end

/-! ### The tiles of a state -/

/-- A chain's marks agree with its census count, of which a chain OFF or DOWN has none (R123, R124). -/
def State.MarksFollow (s : State) (c : Fin 4) : Prop :=
  (∀ p, s.marked c p = true ↔ ∃ n, (s.chains.get c).census = some n ∧ p < min n (s.options.tileCounts.get c)) ∧
  ((s.chains.get c).state = .off ∨ (s.chains.get c).state = .down →
    ((s.chains.get c).census = none ∨ (s.chains.get c).census = some 0) ∧ ∀ p, s.marked c p = false)

theorem tilesSound_iff {s : State} : TilesSound s ↔ (∀ i, (s.collector.tiles.get i).Sound) ∧
    (∀ c, s.options.tileCounts.get c ≤ 16) ∧ (s.startUp.phase ≠ .running → ∀ c, (s.chains.get c).census = none) ∧
    ∀ c, s.MarksFollow c := Iff.rfl

theorem State.options_congr {s t : State} (h : t.startUp.applied = s.startUp.applied) : t.options = s.options := by
  unfold State.options
  rw [h]

/-- A chain whose marks and census count stay, and that does not go OFF or DOWN. -/
theorem State.MarksFollow.congr {s t : State} {c : Fin 4} (h : s.MarksFollow c) (options : t.options = s.options)
    (marked : ∀ p, t.marked c p = s.marked c p) (census : (t.chains.get c).census = (s.chains.get c).census)
    (on : (t.chains.get c).state = .off ∨ (t.chains.get c).state = .down →
      (s.chains.get c).state = .off ∨ (s.chains.get c).state = .down) : t.MarksFollow c := by
  obtain ⟨marks, none_⟩ := h
  refine ⟨fun p => ?_, fun rests => ?_⟩
  · rw [marked, census, options, marks]
  · obtain ⟨count, unmarked⟩ := none_ (on rests)
    exact ⟨census ▸ count, fun p => (marked p).trans (unmarked p)⟩

/-- A chain without a census count has no tile marked (R143). -/
theorem State.marksFollow_of_none {s : State} {c : Fin 4} (census : (s.chains.get c).census = none)
    (unmarked : ∀ p, s.marked c p = false) : s.MarksFollow c :=
  ⟨fun p => by simp [census, unmarked p], fun _ => ⟨.inl census, unmarked⟩⟩

theorem State.MarksFollow.unmarked {s : State} {c : Fin 4} (h : s.MarksFollow c) (census : (s.chains.get c).census = none) (p : Nat) :
    s.marked c p = false := by
  obtain ⟨marks, -⟩ := h
  rw [Bool.eq_false_iff, Ne, marks]
  simp [census]

/-- A census of a chain ends: its first positions are marked, and the other chains stay as they were (R123, R124, R144). -/
theorem TilesSound.census {s t : State} (inv : TilesSound s) (run : s.running = true) (c : Fin 4) {n : Nat} (range : n ≤ 16)
    (startUp : t.startUp = s.startUp) (tiles : Marked c n s t) (others : ∀ d, d ≠ c → t.chains.get d = s.chains.get d)
    (count : ∀ p, p < n ↔ ∃ m, (t.chains.get c).census = some m ∧ p < min m (s.options.tileCounts.get c))
    (rests : (t.chains.get c).state = .off ∨ (t.chains.get c).state = .down →
      n = 0 ∧ ((t.chains.get c).census = none ∨ (t.chains.get c).census = some 0)) : TilesSound t := by
  obtain ⟨sound, counts, -, marks⟩ := tilesSound_iff.mp inv
  have options : t.options = s.options := State.options_congr (by rw [startUp])
  have marked := tiles.marked_iff range
  refine tilesSound_iff.mpr ⟨tiles.sound sound, fun d => options ▸ counts d, fun waits => ?_, fun d => ?_⟩
  · rw [startUp] at waits
    exact absurd (by simpa [State.running] using run) waits
  · by_cases here : d = c
    · subst here
      refine ⟨fun p => by rw [marked, options, count], fun off => ?_⟩
      obtain ⟨rfl, absent⟩ := rests off
      exact ⟨absent, fun p => by simp [Bool.eq_false_iff, marked]⟩
    · have same := others d here
      exact (marks d).congr options (tiles.marked_other here) (by rw [same]) (by rw [same]; exact id)

/-! ### What a census changes -/

section
variable (c : Fin 4) (s : State)

theorem marked_censusUsable (n : Nat) : Marked c (min n (s.options.tileCounts.get c)) s (s.censusUsable c n) := fun d q => by
  rw [State.censusUsable_eq, State.setChain_collector, State.markChain_tile, State.requestAll_collector]

theorem State.censusUsable_startUp (n : Nat) : (s.censusUsable c n).startUp = s.startUp := by simp [State.censusUsable_eq]

theorem State.censusUsable_chains (n : Nat) : (s.censusUsable c n).chains = s.chains.set c ((s.chains.get c).usable n) := by
  simp [State.censusUsable_eq]

theorem marked_censusDown (back : Bool) : Marked c 0 s (s.censusDown c back) := fun d q => by
  simp only [State.censusDown_eq, State.markChain_tile, State.setChain_collector]

theorem State.censusDown_startUp (back : Bool) : (s.censusDown c back).startUp = s.startUp := by simp [State.censusDown_eq]

theorem State.censusDown_chains (back : Bool) : (s.censusDown c back).chains =
    s.chains.set c ((s.chains.get c).unusable (if back then some 0 else none) (s.timeBase + Config.censusRetry)) := by
  simp [State.censusDown_eq]

end

theorem tilesSound_rules : ChainRules TilesSound := by
  refine .of_steady tilesSound_held ?reading ?handOver ?release ?steady ?censusUsable ?censusDown
  case reading =>
    intro s t inv before _ applied chains collector
    obtain ⟨tiles, counts, waits, marks⟩ := tilesSound_iff.mp inv
    have none_ := waits (by rcases before with e | e <;> simp [e])
    have options := State.options_congr applied
    refine tilesSound_iff.mpr ⟨collector ▸ tiles, options ▸ counts, fun _ => chains ▸ none_, fun c => ?_⟩
    exact (marks c).congr options (State.marked_congr fun q => by rw [collector]) (by rw [chains]) (by rw [chains]; exact id)
  case handOver =>
    intro s inv reading own block octets
    obtain ⟨tiles, -, waits, marks⟩ := tilesSound_iff.mp inv
    have none_ := waits (by simp [reading])
    have absent : ∀ c, ((s.handOver (appliedOf own block) octets).chains.get c).census = none := fun c => by
      rw [State.handOver_chain, apply_ite Chain.census, none_ c, ite_self]
    obtain ⟨-, -, ⟨counts, -⟩, -⟩ := appliedOf_inRange own block
    exact tilesSound_iff.mpr ⟨tiles, counts, fun _ => absent, fun c =>
      State.marksFollow_of_none (absent c) ((marks c).unmarked (none_ c))⟩
  case release =>
    intro s inv powering
    obtain ⟨tiles, counts, waits, marks⟩ := tilesSound_iff.mp inv
    have none_ := waits (by simp [powering])
    have absent : ∀ c, (s.release.chains.get c).census = none := fun c => by
      rw [State.release_chain, apply_ite Chain.census, none_ c, ite_self]
    exact tilesSound_iff.mpr ⟨tiles, counts, fun _ => absent, fun c =>
      State.marksFollow_of_none (absent c) ((marks c).unmarked (none_ c))⟩
  case steady =>
    intro s t inv on
    obtain ⟨tiles, counts, waits, marks⟩ := tilesSound_iff.mp inv
    have options : t.options = s.options := State.options_congr (by rw [on.startUp])
    refine tilesSound_iff.mpr ⟨fun i => (on.tiles i).1 (tiles i), options ▸ counts, fun stopped c => ?_, fun c => ?_⟩
    · obtain ⟨-, -, -, census⟩ := on.chains c
      rw [census]
      exact waits (on.startUp ▸ stopped) c
    · obtain ⟨-, off, down, census⟩ := on.chains c
      exact (marks c).congr options (State.marked_congr fun q => (on.tiles _).2) census (Or.imp off.mp down)
  case censusUsable =>
    intro s c n inv run _ _
    have ⟨_, counts, _⟩ := inv
    have chains := State.censusUsable_chains c s n
    refine inv.census run c ((Nat.min_le_right _ _).trans (counts c)) (State.censusUsable_startUp c s n) (marked_censusUsable c s n)
      (fun d other => by rw [chains, Table.get_set_other _ _ other]) (fun p => ?_) fun rests => ?_
    · simp [chains, Chain.usable_eq]
    · simp [chains, Chain.usable_eq] at rests
  case censusDown =>
    intro s c back inv run _
    have chains := State.censusDown_chains c s back
    refine inv.census run c (Nat.zero_le 16) (State.censusDown_startUp c s back) (marked_censusDown c s back)
      (fun d other => by rw [chains, Table.get_set_other _ _ other]) (fun p => ?_) fun _ => ⟨rfl, ?_⟩
    · cases back <;> simp [chains, Chain.unusable]
    · cases back <;> simp [chains, Chain.unusable]

/-- Settles O14: a census alone changes marks and counts, and it changes both together. -/
theorem stepKeepsTilesSound : Obligations.StepKeepsTilesSound := by
  unfold Obligations.StepKeepsTilesSound
  exact tilesSound_rules.keptByStep

end Sys2Proof.Machine
end

section
/-! Every step keeps the deferred record with the detail request that it waits for (R118, R193, R194, R196, R197). -/

namespace Sys2Proof.Machine

open Sys2Proof

/-! ### What a record waits for -/

/-- The position of a chain that the deferred record waits for (R193, R194). -/
def waitingAt (r : Option Deferred) (c : Fin 4) : Option Nat :=
  r.bind fun d => if d.state = .waiting ∧ d.tile / 16 = c.val then some (d.tile % 16) else none

/-- A deferred record in range (R193, R197). -/
def DeferredInRange (r : Option Deferred) : Prop :=
  ∀ d, r = some d → d.tile < 64 ∧ d.readyAge < Config.readyFreeAge ∧ (d.state = .waiting → d.readyAge = 0)

/-- A chain has the detail request that is waited for, and no other (R118, R130). -/
def Chain.Accounts (ch : Chain) : Option Nat → Prop
  | some p => ch.HasDetail p
  | none => ch.NoDetail

theorem deferredSound_iff {s : State} : DeferredSound s ↔ (s.startUp.phase ≠ .running → s.responder.deferred = none) ∧
    DeferredInRange s.responder.deferred ∧ ∀ c, (s.chains.get c).Accounts (waitingAt s.responder.deferred c) := by
  refine and_congr Iff.rfl (and_congr Iff.rfl (forall_congr' fun c => ?_))
  cases s.responder.deferred with
  | none => exact Iff.rfl
  | some d =>
    simp only [waitingAt, Option.bind_some]
    split <;> exact Iff.rfl

theorem waitingAt_of_rests {d : Deferred} (rests : d.state ≠ .waiting) (c : Fin 4) : waitingAt (some d) c = none := by
  simp [waitingAt, rests]

theorem waitingAt_self {d : Deferred} (waits : d.state = .waiting) {c : Fin 4} (here : d.tile / 16 = c.val) :
    waitingAt (some d) c = some (d.tile % 16) := by simp [waitingAt, waits, here]

theorem waitingAt_elsewhere {d : Deferred} {c : Fin 4} (away : d.tile / 16 ≠ c.val) : waitingAt (some d) c = none := by
  simp [waitingAt, away]

/-- One record waits for one chain. -/
theorem waitingAt_other {r : Option Deferred} {c d : Fin 4} {p : Nat} (h : waitingAt r c = some p) (other : d ≠ c) :
    waitingAt r d = none := by
  cases r with
  | none => rfl
  | some w =>
    have here : w.tile / 16 = c.val := by
      by_contra away
      rw [waitingAt_elsewhere away] at h
      cases h
    exact waitingAt_elsewhere fun e => other (Fin.ext (e.symm.trans here))

theorem Deferred.resolved_state_ne (words : Option DetailWords) (d : Deferred) : (d.resolved words).state ≠ .waiting := by
  cases words <;> simp [Deferred.resolved]

/-- After an outcome nothing is waited for (R196). -/
theorem waitingAt_outcome (words : Option DetailWords) (r : Responder) (c : Fin 4) : waitingAt (r.outcome words).deferred c = none := by
  cases filled : r.deferred with
  | none => simp [Responder.outcome, filled, waitingAt]
  | some d =>
    by_cases waits : d.state = .waiting
    · rw [Responder.outcome_of_waiting filled waits]
      exact waitingAt_of_rests (Deferred.resolved_state_ne words d) c
    · rw [Responder.outcome_of_not_waiting (by simpa [filled] using waits), filled]
      exact waitingAt_of_rests waits c

theorem DeferredInRange.outcome {r : Responder} (h : DeferredInRange r.deferred) (words : Option DetailWords) :
    DeferredInRange (r.outcome words).deferred := by
  intro d e
  simp only [Responder.outcome, Option.map_eq_some_iff] at e
  obtain ⟨old, filled, rfl⟩ := e
  obtain ⟨tile, age, waiting⟩ := h old filled
  unfold Deferred.outcome
  split
  · exact ⟨tile, by simp [Deferred.resolved, Config.readyFreeAge], fun _ => rfl⟩
  · exact ⟨tile, age, waiting⟩

/-! ### A chain's own part -/

section
variable {ch : Chain} {w : Option Nat} (h : ch.Accounts w)
include h

theorem Chain.Accounts.congr {x : Chain} (same : ch.SameDetail x) : x.Accounts w := by
  obtain ⟨detail, waits, sent, runs⟩ := same
  cases w with
  | none => exact ⟨detail.trans h.1, mt runs.mp h.2⟩
  | some p =>
    refine Or.imp (fun ⟨asked, rests, place⟩ => ?_) (fun ⟨reads, taken, place⟩ => ?_) h
    · exact ⟨detail.trans asked, mt runs.mp rests, waits.trans place⟩
    · exact ⟨runs.mpr reads, detail.trans taken, sent.trans place⟩

/-- A detail request is one that is waited for. -/
theorem Chain.Accounts.isSome : w.isSome = ch.hasDetail := by
  cases w with
  | none => simp [Chain.hasDetail, h.1, h.2]
  | some p => rcases h with ⟨asked, -⟩ | ⟨reads, -⟩ <;> simp [Chain.hasDetail, *]

end

/-- A detail request that is read no longer waits (R118, R130). -/
theorem Chain.Accounts.taken {ch : Chain} {w : Option Nat} (h : ch.Accounts w) (reads : ch.state = .detail) : ch.pend.detail = false := by
  cases w with
  | none => exact h.1
  | some p =>
    rcases h with ⟨-, rests, -⟩ | ⟨-, taken, -⟩
    · exact absurd reads rests
    · exact taken

/-- A detail that starts is the one that is waited for (R130). -/
theorem Chain.Accounts.startDetail {ch : Chain} {w : Option Nat} (h : ch.Accounts w) (rests : ch.state ≠ .detail)
    (asked : ch.pend.detail = true) : ch.startDetail.Accounts w := by
  cases w with
  | none => exact absurd asked (by simp [h.1])
  | some p =>
    rcases h with ⟨-, -, place⟩ | ⟨reads, -⟩
    · exact .inr ⟨rfl, rfl, place⟩
    · exact absurd reads rests

/-! ### The record and the chains -/

/-- Whatever leaves the record alone, and every detail request. -/
theorem DeferredSound.congr {s t : State} (inv : DeferredSound s) (phase : t.startUp.phase ≠ .running → s.startUp.phase ≠ .running)
    (deferred : t.responder.deferred = s.responder.deferred)
    (chains : ∀ c, (s.chains.get c).Accounts (waitingAt s.responder.deferred c) →
      (t.chains.get c).Accounts (waitingAt s.responder.deferred c)) : DeferredSound t := by
  obtain ⟨waits, range, accounts⟩ := deferredSound_iff.mp inv
  exact deferredSound_iff.mpr
    ⟨fun stopped => deferred.trans (waits (phase stopped)), deferred ▸ range, fun c => deferred ▸ chains c (accounts c)⟩

/-- The detail of a chain, when it has one, comes to its outcome, and the chain is left without any (R196). -/
theorem DeferredSound.detailOver {s t : State} (inv : DeferredSound s) (c : Fin 4) (words : Option DetailWords)
    (startUp : t.startUp = s.startUp) (others : ∀ d, d ≠ c → t.chains.get d = s.chains.get d) (clear : (t.chains.get c).NoDetail)
    (responder : t.responder = if (s.chains.get c).hasDetail then s.responder.outcome words else s.responder) : DeferredSound t := by
  obtain ⟨waits, range, accounts⟩ := deferredSound_iff.mp inv
  have mine := (accounts c).isSome
  split at responder
  · next asked =>
    obtain ⟨p, here⟩ := Option.isSome_iff_exists.mp (mine.trans asked)
    refine deferredSound_iff.mpr ⟨fun stopped => ?_, responder ▸ range.outcome words, fun d => ?_⟩
    · rw [responder, Responder.outcome, waits (startUp ▸ stopped), Option.map_none]
    · rw [responder, waitingAt_outcome]
      by_cases other : d = c
      · exact other ▸ clear
      · have account := accounts d
        rw [waitingAt_other here other] at account
        rw [others d other]
        exact account
  · next free =>
    refine inv.congr (by rw [startUp]; exact id) (by rw [responder]) fun d account => ?_
    by_cases other : d = c
    · subst other
      have unasked : waitingAt s.responder.deferred d = none := Option.not_isSome_iff_eq_none.mp (by rw [mine]; exact free)
      rw [unasked]
      exact clear
    · exact others d other ▸ account

theorem deferredSound_censusDown {s : State} (inv : DeferredSound s) {c : Fin 4} (census : (s.chains.get c).state = .census)
    (back : Bool) : DeferredSound (s.censusDown c back) := by
  have chains := State.censusDown_chains c s back
  refine inv.detailOver c none (State.censusDown_startUp c s back) (fun d other => by rw [chains, Table.get_set_other _ _ other]) ?_ ?_
  · rw [chains, Table.get_set_self]
    exact ⟨rfl, by simp [Chain.unusable, Chain.begin]⟩
  · simp [State.censusDown_eq, Chain.hasDetail, census]

theorem deferredSound_endDetail {s : State} (inv : DeferredSound s) {c : Fin 4} (reads : (s.chains.get c).state = .detail)
    (echo : BitVec 32) (words : DetailWords) : DeferredSound (s.endDetail c echo words) := by
  rw [State.endDetail_eq]
  refine inv.detailOver c (if echo = selectWord (s.chains.get c).sentPosition then some words else none) (by simp)
    (fun d other => by simp [Table.get_set_other _ _ other]) ?_ (by simp [Chain.hasDetail, reads])
  obtain ⟨-, -, accounts⟩ := deferredSound_iff.mp inv
  rw [State.requestAll_chains, State.detailOutcome_chains, State.setChain_chains, Table.get_set_self]
  exact ⟨(accounts c).taken reads, by simp [Chain.finish, Chain.begin]⟩

/-- What has no bearing on details. -/
theorem DeferredSound.undisturbed {s t : State} (inv : DeferredSound s) (on : Undisturbed s t) : DeferredSound t :=
  inv.congr (by rw [on.1.startUp]; exact id) on.2.deferred fun c account => account.congr (on.2.chains c)

theorem DeferredSound.replied {s : State} (inv : DeferredSound s) (q : Query) (answer : ReplyStatus) (octets : List Octet) :
    DeferredSound (s.reply q answer octets) := inv.undisturbed ((keeps_reply q answer octets s).undisturbed (by simp))

/-- A record that waits for nothing may be freed (R195). -/
theorem DeferredSound.freed {s : State} (inv : DeferredSound s) {d : Deferred} (filled : s.responder.deferred = some d)
    (rests : d.state ≠ .waiting) : DeferredSound (s.setDeferred none) := by
  obtain ⟨-, -, accounts⟩ := deferredSound_iff.mp inv
  refine deferredSound_iff.mpr ⟨fun _ => rfl, by simp [DeferredInRange], fun c => ?_⟩
  have account := accounts c
  rw [filled, waitingAt_of_rests rests] at account
  exact account

theorem deferredSound_askAgain {s : State} (inv : DeferredSound s) {d : Deferred} (filled : s.responder.deferred = some d)
    (q : Query) : DeferredSound (s.askAgain q d) := by
  unfold State.askAgain
  split
  · split
    · exact inv.replied _ _ _
    · next ready => exact (inv.freed filled (by simp [ready])).replied _ _ _
    · next failed => exact (inv.freed filled (by simp [failed])).replied _ _ _
  · exact inv.replied _ _ _

/-- The record that a first ask makes, and the request that it posts on a chain that has none (R194). -/
theorem deferredSound_firstAsk {s : State} (inv : DeferredSound s) (run : s.running = true) (free : s.responder.deferred = none)
    (q : Query) (i : Fin 64) : DeferredSound (s.firstAsk q i) := by
  have clear : ∀ d, (s.chains.get d).NoDetail := fun d => by
    obtain ⟨-, -, accounts⟩ := deferredSound_iff.mp inv
    have account := accounts d
    rw [free] at account
    exact account
  unfold State.firstAsk
  dsimp only
  split
  · exact inv.replied _ _ _
  · next ready =>
    refine DeferredSound.replied ?_ _ _ _
    simp only [Bool.or_eq_true, decide_eq_true_eq, not_or] at ready
    obtain ⟨⟨-, on⟩, up⟩ := ready
    obtain ⟨unasked, rests⟩ := clear ⟨i.val / 16, by omega⟩
    rw [State.postDetail, if_neg (by simpa using up), State.setDeferred_chains, Chain.postDetail, if_neg (by simp [on, unasked])]
    refine deferredSound_iff.mpr ⟨fun stopped => ?_, fun d e => ?_, fun d => ?_⟩
    · exact absurd (by simpa [State.running] using run) stopped
    · cases e
      exact ⟨i.isLt, by simp [Config.readyFreeAge], fun _ => rfl⟩
    · rw [State.setChain_responder, State.setDeferred_responder, State.setChain_chains, Table.get_set]
      split
      · next here =>
        rw [waitingAt_self rfl (by rw [here])]
        exact Or.inl ⟨rfl, rests, rfl⟩
      · next other =>
        rw [waitingAt_elsewhere fun e => other (Fin.ext e.symm)]
        exact clear d

/-- A record that grows old is none that is waited for (R197). -/
theorem deferredSound_aged {s : State} (inv : DeferredSound s) (due : Option Nat) :
    DeferredSound { s with responder := ⟨s.responder.deferred.bind Deferred.aged, due⟩ } := by
  obtain ⟨waits, range, accounts⟩ := deferredSound_iff.mp inv
  cases filled : s.responder.deferred with
  | none => exact deferredSound_iff.mpr ⟨fun _ => rfl, by simp [DeferredInRange], by simpa [filled] using accounts⟩
  | some d =>
    simp only [Option.bind_some, Deferred.aged_eq]
    by_cases waiting : d.state = .waiting
    · rw [if_pos waiting, ← filled]
      exact inv
    · have rest := fun c => waitingAt_of_rests waiting c
      obtain ⟨tile, -, -⟩ := range d filled
      have stopped : s.startUp.phase = .running := by
        by_contra phase
        simp [waits phase] at filled
      rw [if_neg waiting]
      refine deferredSound_iff.mpr ⟨fun phase => absurd stopped phase, fun e found => ?_, fun c => ?_⟩
      · simp only [Option.ite_none_right_eq_some, Option.some.injEq] at found
        obtain ⟨young, rfl⟩ := found
        exact ⟨tile, young, fun w => absurd w waiting⟩
      · have account := accounts c
        rw [filled, rest] at account
        dsimp only
        split
        · rw [waitingAt_of_rests (d := { d with readyAge := d.readyAge + 1 }) waiting]
          exact account
        · exact account

theorem deferredSound_rules : ChainRules DeferredSound where
  held := deferredSound_held
  reading inv before _ _ chains _ responder :=
    inv.congr (fun _ => by rcases before with e | e <;> simp [e]) (by rw [responder]) fun c => by rw [chains]; exact id
  handOver inv reading own block octets := inv.congr (fun _ => by simp [reading]) rfl fun c account => by
    have none_ := inv.1 (by simp [reading])
    rw [none_] at account ⊢
    rw [State.handOver_chain]
    split
    · exact ⟨account.1, by simp⟩
    · exact account
  release inv powering := inv.congr (fun _ => by simp [powering]) rfl fun c account => by
    rw [State.release_chain]
    split
    · exact account.congr (.refl _)
    · exact account
  undisturbed inv on := inv.undisturbed on
  startDetail c inv rests asked := inv.congr id rfl fun d account => by
    rw [State.setChain_chains, Table.get_set]
    split
    · next here => exact here ▸ account.startDetail (by simp [here, rests]) (here ▸ asked)
    · exact account
  refuseDetail c inv rests asked := by
    refine inv.detailOver c none (by simp) (fun d other => by simp [Table.get_set_other _ _ other]) ?_ ?_
    · rw [State.detailOutcome_chains, State.setChain_chains, Table.get_set_self]
      exact ⟨rfl, by simp [Chain.clearDetail, rests]⟩
    · simp [Chain.hasDetail, asked]
  censusUsable c n inv _ census _ := by
    rw [State.censusUsable_eq]
    refine inv.congr (by simp) (by simp) fun d account => ?_
    rw [State.setChain_chains, Table.get_set]
    split
    · next here => exact here ▸ account.congr (by simp [Chain.usable_eq, Chain.SameDetail, here, census])
    · simpa using account
  censusDown c back inv _ census := deferredSound_censusDown inv census back
  endDetail c echo words inv reads := deferredSound_endDetail inv reads echo words
  abort c inv may := by
    rw [State.abortOperation_eq]
    refine inv.detailOver c none rfl (fun d other => Table.get_set_other _ _ other) ?_ rfl
    rw [Table.get_set_self]
    exact ⟨rfl, by simp [Chain.aborted_eq]⟩
  firstAsk q i inv run free := deferredSound_firstAsk inv run free q i
  askAgain q d inv filled := deferredSound_askAgain inv filled q
  aged due inv := deferredSound_aged inv due

/-- Settles O15: a detail request comes and goes with the record that waits for it. -/
theorem stepKeepsDetailAccounted : Obligations.StepKeepsDetailAccounted := by
  unfold Obligations.StepKeepsDetailAccounted
  exact deferredSound_rules.keptByStep

end Sys2Proof.Machine
end

section
/-! The completions of a chain's operations, their timeout and the chain's intervals (R116, R121 to R123, R125 to R134, R137, R138,
R144, R151, R196). -/

namespace Sys2Proof.Machine

open Sys2Proof

/-! ### Words sent -/

/-- An echo is the brightness word sent when it reads as the value sent (R125, R126). -/
theorem eq_brightnessWord_iff {w : BitVec 32} {value : Nat} : w = brightnessWord value ↔ w.toNat = value % 65536 := by
  rw [brightnessWord, BitVec.toNat_eq, BitVec.toNat_ofNat, Nat.mod_eq_of_lt (by omega)]

/-- An echo is the select word sent when it reads as the position sent (R130, R131). -/
theorem eq_selectWord_iff {w : BitVec 32} {position : Nat} : w = selectWord position ↔ w.toNat = position % 16 := by
  rw [selectWord, BitVec.toNat_eq, BitVec.toNat_ofNat, Nat.mod_eq_of_lt (by omega)]

/-! ### A chain's record at the end of an operation -/

section
variable {ch : Chain}

theorem Chain.finish_eq (ch : Chain) : ch.finish = { ch with
    state := .idle, bitCount := 0, lead := none, wordsDone := 0, entered := [], finalArrived := false, stalled := false } := rfl

theorem Chain.echoed_of_equal {echo : BitVec 32} (equal : echo.toNat = ch.sentValue % 65536) :
    ch.echoed echo = { ch.finish with echoMiss := 0 } := if_pos (eq_brightnessWord_iff.mpr equal)

theorem Chain.missesAgain_of_equal {echo : BitVec 32} (equal : echo.toNat = ch.sentValue % 65536) : ch.missesAgain echo = false := by
  simp [Chain.missesAgain, eq_brightnessWord_iff.mpr equal]

/-- A differing echo counts as a miss, and the first one posts the word again unless a brightness request waits (R126). -/
theorem Chain.echoed_of_differs {echo : BitVec 32} (differs : echo.toNat ≠ ch.sentValue % 65536) :
    ch.echoed echo = { ch.finish with
      echoMiss := min (ch.echoMiss + 1) 255
      pend := { ch.pend with brightness := ch.pend.brightness || decide (ch.echoMiss = 0) }
      pendingValue := if ch.echoMiss = 0 ∧ ch.pend.brightness = false then ch.sentValue else ch.pendingValue } := by
  rw [Chain.echoed, if_neg (mt eq_brightnessWord_iff.mp differs)]
  by_cases first : ch.echoMiss = 0 <;> cases waits : ch.pend.brightness <;>
    simp [first, Chain.finish, Chain.begin, Chain.postBrightness, satSucc]
  all_goals rw [← waits]

theorem Chain.missesAgain_of_differs {echo : BitVec 32} (differs : echo.toNat ≠ ch.sentValue % 65536) :
    ch.missesAgain echo = decide (ch.echoMiss ≠ 0) := by
  simp [Chain.missesAgain, mt eq_brightnessWord_iff.mp differs, Nat.one_le_iff_ne_zero]

theorem Chain.bitLimit_of_timed {op : ChainState} (h : ch.state = op) (timed : timedOperation op = true) :
    ch.bitLimit = expectedBits op (ch.census.getD 0) + 64 := by
  subst h
  rw [Chain.bitLimit, if_neg (fun census => by simp [census, timedOperation] at timed), if_pos timed]

end

/-! ### An unusable census -/

section
variable (c : Fin 4) (back : Bool) (s : State)

theorem State.censusDown_requests : (s.censusDown c back).requests =
    s.requests ++ (absenceWithdraws s c 0).map (Request.made s.timeBase) ++
      [Request.made s.timeBase (.chainDown, BitVec.ofNat 6 c.val, .raise (some (if back then 0 else 0xFFFF)))] := by
  rw [State.censusDown_eq]

theorem State.censusDown_responder : (s.censusDown c back).responder =
    if (s.chains.get c).pend.detail then s.responder.outcome none else s.responder := by rw [State.censusDown_eq]

theorem State.censusDown_pointer : (s.censusDown c back).collector.pointer = s.collector.pointer := by simp [State.censusDown_eq]

theorem State.censusDown_lastTake : (s.censusDown c back).collector.lastTake = s.collector.lastTake := by simp [State.censusDown_eq]

end

/-! ### The rows -/

section
variable {c : Fin 4} {s : State} (run : s.running = true)
include run

theorem exec_censusUnusable (runs : (s.chains.get c).state = .census) (back : Bool) :
    exec (.censusUnusable c back) s = .next ((s.reachBit c (if back then 0 else 64)).censusDown c back) := by
  simp [exec, execCensusUnusable, run, runs]

theorem exec_brightnessComplete (runs : (s.chains.get c).state = .brightness) {lead : Nat}
    (range : lead + 32 ≤ (s.chains.get c).census.getD 0 + 32 + 64) (echo : BitVec 32) :
    exec (.brightnessComplete c lead echo) s = .next ((s.reachBit c (lead + 32)).endBrightness c echo) := by
  have falls : s.runs c .brightness (lead + 32) = true :=
    State.runs_iff.mpr ⟨run, runs, range.trans_eq (Chain.bitLimit_of_timed runs rfl).symm⟩
  simp [exec, execBrightnessComplete, falls]

theorem exec_detailComplete (runs : (s.chains.get c).state = .detail) {lead : Nat}
    (range : lead + 160 ≤ (s.chains.get c).census.getD 0 + 160 + 64) (echo : BitVec 32) (words : DetailWords) :
    exec (.detailComplete c lead echo words) s = .next ((s.reachBit c (lead + 160)).endDetail c echo words) := by
  have falls : s.runs c .detail (lead + 160) = true :=
    State.runs_iff.mpr ⟨run, runs, range.trans_eq (Chain.bitLimit_of_timed runs rfl).symm⟩
  simp [exec, execDetailComplete, falls]

theorem exec_testComplete (runs : (s.chains.get c).state = .test) {lead : Nat}
    (range : lead + 254 ≤ (s.chains.get c).census.getD 0 + 254 + 64) (returned : BitVec 254) :
    exec (.testComplete c lead returned) s = .next ((s.reachBit c (lead + 254)).endTest c (mismatchCount returned)) := by
  have falls : s.runs c .test (lead + 254) = true :=
    State.runs_iff.mpr ⟨run, runs, range.trans_eq (Chain.bitLimit_of_timed runs rfl).symm⟩
  simp [exec, execTestComplete, falls]

theorem exec_sweepComplete (runs : (s.chains.get c).state = .sweep) (final : (s.chains.get c).finalArrived = true)
    (clear : (s.chains.get c).register = none) : exec (.sweepComplete c) s =
      .next (((s.sweepReport c (s.chains.get c).entered).setChain c (s.chains.get c).finish).chainRequest c .chainTimeout .withdraw) := by
  simp [exec, execSweepComplete, run, runs, final, clear]

theorem exec_operationTimeout (may : (s.chains.get c).mayTimeOut = true) :
    exec (.operationTimeout c) s = .next ((s.reachBit c (s.chains.get c).bitLimit).abortOperation c) := by
  simp [exec, execOperationTimeout, run, may]

/-- The word that completes, at the bit time that the sweep's one lead bit gives it (R116, R127; log entry 19). -/
theorem exec_statusWordComplete (runs : (s.chains.get c).state = .sweep) {own lead n : Nat}
    (opened : (s.chains.get c).lead = some lead ∨ (s.chains.get c).lead = none ∧ own = lead)
    (census : (s.chains.get c).census = some n) (awaits : (s.chains.get c).wordsDone < n) (clock : (s.chains.get c).stalled = false)
    (range : lead + 32 * ((s.chains.get c).wordsDone + 1) ≤ 33 * n + 64) (word : BitVec 32) :
    exec (.statusWordComplete c own word) s =
      .next ((s.reachBit c (lead + 32 * ((s.chains.get c).wordsDone + 1))).setChain c
        { Chain.wordDone (s.marked c (s.chains.get c).wordsDone) word
            { s.chains.get c with bitCount := lead + 32 * ((s.chains.get c).wordsDone + 1) } with lead := some lead }) := by
  have first : (s.chains.get c).leadOr own = lead := by
    rcases opened with known | ⟨unknown, rfl⟩
    · simp [Chain.leadOr, known]
    · simp [Chain.leadOr, unknown]
  have limit : (s.chains.get c).bitLimit = 33 * n + 64 := by rw [Chain.bitLimit_of_timed runs rfl, census]; rfl
  have falls : s.runs c .sweep (lead + 32 * ((s.chains.get c).wordsDone + 1)) = true :=
    State.runs_iff.mpr ⟨run, runs, range.trans_eq limit.symm⟩
  have more : (s.chains.get c).awaitsWord = true := by simp [Chain.awaitsWord, clock, census, awaits]
  simp only [exec, execStatusWordComplete, first, falls, more, Bool.and_self, if_true, State.reachBit_marked, State.reachBit_self,
    wordTime]

end

/-! ### The obligations -/

/-- Settles O47: the chain's record, the marks, CHAIN_DOWN and the pending detail's outcome, part by part. -/
theorem censusFails : Obligations.CensusFails := by
  unfold Obligations.CensusFails
  intro c back s run census
  have marks := marked_censusDown c (s.reachBit c (if back then 0 else 64)) back
  have chains := State.censusDown_chains c (s.reachBit c (if back then 0 else 64)) back
  have now := keeps_censusDown c back (s.reachBit c (if back then 0 else 64)) .timeBase (by simp)
  refine ⟨_, exec_censusUnusable run census back, State.reachBit_butChain (keeps_censusDown c back _) fun d other => ?_, ?_, ?_, ?_,
    ?_, fun d p other => ?_, fun p => ?_, fun unasked => ?_, fun d asked filled waits => ?_⟩
  · rw [chains, Table.get_set_other _ _ other]
  · rw [chains, Table.get_set_self, now, State.reachBit_self]
    rfl
  · rw [State.censusDown_requests, madeNow_eq, madeNow_eq, now, State.reachBit_requests,
      absenceWithdraws_congr (State.reachBit_collector _ _ _)]
    rfl
  · rw [State.censusDown_pointer, State.reachBit_collector]
  · rw [State.censusDown_lastTake, State.reachBit_collector]
  · rw [marks d p, if_neg other, State.reachBit_collector]
  · rw [marks c p, if_pos rfl, State.reachBit_collector]
    rfl
  · rw [State.censusDown_responder, State.reachBit_self, if_neg (by simp [unasked]), State.reachBit_responder]
  · rw [State.censusDown_responder, State.reachBit_self, if_pos asked, State.reachBit_responder,
      Responder.outcome_of_waiting filled waits]
    rfl

/-- Settles O48: the chain by its echo, and the two requests. -/
theorem brightnessCompletes : Obligations.BrightnessCompletes := by
  unfold Obligations.BrightnessCompletes
  intro c lead echo s run runs range
  refine ⟨_, exec_brightnessComplete run runs range echo, State.reachBit_butChain (keeps_endBrightness c echo _) fun d other => ?_,
    fun equal => ⟨?_, ?_⟩, fun differs => ⟨?_, ?_⟩⟩ <;> rw [State.endBrightness_eq, State.reachBit_self]
  · simp [Table.get_set_other _ _ other]
  · rw [State.requestAll_chains, State.setChain_chains, Table.get_set_self]
    exact Chain.echoed_of_equal (ch := { s.chains.get c with bitCount := lead + 32 }) equal
  · rw [Chain.missesAgain_of_equal (ch := { s.chains.get c with bitCount := lead + 32 }) equal]
    simp [madeNow_eq]
  · rw [State.requestAll_chains, State.setChain_chains, Table.get_set_self]
    exact Chain.echoed_of_differs (ch := { s.chains.get c with bitCount := lead + 32 }) differs
  · rw [Chain.missesAgain_of_differs (ch := { s.chains.get c with bitCount := lead + 32 }) differs]
    simp [madeNow_eq]

/-- Settles O49: a word that finds its tile absent, room in the FIFO, or neither. -/
theorem statusWordCompletes : Obligations.StatusWordCompletes := by
  unfold Obligations.StatusWordCompletes
  intro c own lead word s n run opened runs census awaits clock range
  refine ⟨_, exec_statusWordComplete run runs opened census awaits clock range word,
    State.reachBit_butChain (keeps_setChain _ _ _) fun d other => Table.get_set_other _ _ other, ?_⟩
  rintro p ch rfl rfl
  rw [State.setChain_chains, Table.get_set_self]
  refine ⟨fun absent => ?_, fun present room => ?_, fun present full => ?_⟩
  · simp [Chain.wordDone, absent, census]
  · simp [Chain.wordDone, present, room, census, Config.fifoDepth]
  · simp [Chain.wordDone, present, Nat.not_lt.mpr full, census, Config.fifoDepth]

/-- Settles O50: the sweep-end report, the chain at rest, and the withdraw. -/
theorem sweepCompletes : Obligations.SweepCompletes := by
  unfold Obligations.SweepCompletes
  intro c s run runs final clear
  refine ⟨_, exec_sweepComplete run runs final clear, ⟨?_, fun d other => ?_⟩, ?_, by simp [madeNow_eq], rfl, rfl, fun d p => ?_⟩
  · exact ((((keeps_sweepReport c _ s).mono (by simp)).trans ((keeps_setChain c _ _).mono (by simp))).trans
      ((keeps_chainRequest c _ _ _).mono (by simp)))
  · simp [Table.get_set_other _ _ other]
  · simp [Chain.finish_eq]
  · exact State.sweepReport_tile c _ s d p

end Sys2Proof.Machine
end

section
/-! The TEST pattern, the completions of DETAIL and TEST, the timeout and the intervals (R118, R121, R130 to R134, R137, R138, R151,
R196). -/

namespace Sys2Proof.Machine

open Sys2Proof

/-! ### The TEST pattern (R132) -/

/-- The seven stages after one shift: each takes the one before it, and stage 1 takes stage 7 exclusive-or stage 6. -/
def nextStages (stages : BitVec 7) : BitVec 7 :=
  (stages <<< 1) ||| (if stages.getLsbD 6 ^^ stages.getLsbD 5 then 1#7 else 0#7)

theorem nextStages_zero (r : BitVec 7) : (nextStages r).getLsbD 0 = (r.getLsbD 6 ^^ r.getLsbD 5) := by
  unfold nextStages
  cases r.getLsbD 6 <;> cases r.getLsbD 5 <;> simp

theorem nextStages_succ (r : BitVec 7) {i : Nat} (h : i + 1 < 7) : (nextStages r).getLsbD (i + 1) = r.getLsbD i := by
  rw [BitVec.getLsbD_eq_getElem (show i < 7 by omega)]
  unfold nextStages
  split <;> simp [h]

/-- A bit moves one place with each shift. -/
theorem nextStages_iterate (j : Nat) (r : BitVec 7) {i : Nat} (h : i + j < 7) :
    (nextStages^[j] r).getLsbD (i + j) = r.getLsbD i := by
  induction j generalizing r with
  | zero => rfl
  | succ j ih =>
    rw [Function.iterate_succ_apply', ← Nat.add_assoc, nextStages_succ _ (by omega), ih r (by omega)]

theorem patternFrom_getElem? (n : Nat) (r : BitVec 7) (k : Nat) :
    (patternFrom n r)[k]? = if k < n then some ((nextStages^[k] r).getLsbD 6) else none := by
  induction n generalizing r k with
  | zero => simp [patternFrom]
  | succ n ih =>
    cases k with
    | zero => simp [patternFrom]
    | succ k =>
      rw [patternFrom, List.getElem?_cons_succ, ← nextStages, ih, Function.iterate_succ_apply]
      simp

theorem patternFrom_length (n : Nat) (r : BitVec 7) : (patternFrom n r).length = n := by
  induction n generalizing r with
  | zero => rfl
  | succ n ih => rw [patternFrom, List.length_cons, ih]

/-- The first seven bits sent are the stages that the register starts with, from stage 7 on. -/
theorem patternFrom_first {n : Nat} (r : BitVec 7) {k : Nat} (h : k < 7) (sent : k < n) :
    (patternFrom n r)[k]? = some (r.getLsbD (6 - k)) := by
  have moved := nextStages_iterate k r (i := 6 - k) (by omega)
  rw [Nat.sub_add_cancel (by omega)] at moved
  rw [patternFrom_getElem?, if_pos sent, moved]

/-- Seven bits on, a bit is the exclusive-or of this one and the next (R132). -/
theorem patternFrom_recurrence {n : Nat} {r : BitVec 7} {k : Nat} {a b : Bool} (ha : (patternFrom n r)[k]? = some a)
    (hb : (patternFrom n r)[k + 1]? = some b) (sent : k + 7 < n) : (patternFrom n r)[k + 7]? = some (a ^^ b) := by
  rw [patternFrom_getElem?, if_pos (by omega), Option.some.injEq] at ha hb
  rw [Function.iterate_succ_apply', nextStages_succ _ (by omega)] at hb
  have fedBack := nextStages_iterate 6 (nextStages^[k + 1] r) (i := 0) (by omega)
  rw [← Function.iterate_add_apply, Function.iterate_succ_apply', nextStages_zero, ha, hb] at fedBack
  rw [patternFrom_getElem?, if_pos sent, show k + 7 = 6 + (k + 1) by omega]
  exact congrArg some fedBack

theorem testPattern_length : testPattern.length = 254 := patternFrom_length _ _

/-- The places at which bits returned differ from bits sent. -/
theorem count_xor_eq_length_filter (l : List Bool) (f : Nat → Bool) :
    (List.zipWith (fun a b => a ^^ b) l ((List.range l.length).map f)).count true =
      ((List.range l.length).filter fun i => l[i]? ≠ some (f i)).length := by
  have places : List.zipWith (fun a b => a ^^ b) l ((List.range l.length).map f) =
      (List.range l.length).map fun i => decide (l[i]? ≠ some (f i)) := by
    refine List.ext_getElem (by simp) fun i h _ => ?_
    have inside : i < l.length := by simpa using h
    simp only [List.getElem_zipWith, List.getElem_map, List.getElem_range, List.getElem?_eq_getElem inside]
    cases l[i] <;> cases f i <;> rfl
  rw [places, List.count, List.countP_map, List.countP_eq_length_filter]
  exact congrArg List.length (List.filter_congr fun i _ => by simp)

theorem mismatchCount_eq (returned : BitVec 254) :
    mismatchCount returned = ((List.range 254).filter fun i => testPattern[i]? ≠ some (returned.getMsbD i)).length := by
  have := count_xor_eq_length_filter testPattern returned.getMsbD
  rwa [testPattern_length] at this

/-- Settles O51: the outcome of a detail by its echo, the pattern by its recurrence, and the count of a TEST's mismatches. -/
theorem detailAndTestComplete : Obligations.DetailAndTestComplete := by
  unfold Obligations.DetailAndTestComplete
  refine ⟨fun c lead echo words s run runs range => ?_, ⟨testPattern_length, fun k first => ?_, fun k a b => patternFrom_recurrence⟩,
    fun c lead returned s run runs range => ?_⟩
  · refine ⟨_, exec_detailComplete run runs range echo words, State.reachBit_butChain (keeps_endDetail c echo words _)
      fun d other => ?_, ?_, ?_, fun d filled waits => ?_, fun rests => ?_⟩ <;> rw [State.endDetail_eq, State.reachBit_self]
    · simp [Table.get_set_other _ _ other]
    · simp [Chain.finish_eq]
    · simp [madeNow_eq]
    · rw [State.requestAll_responder, State.detailOutcome_responder, State.setChain_responder, State.reachBit_responder,
        Responder.outcome_of_waiting filled waits]
      simp only [eq_selectWord_iff]
      split <;> rfl
    · rw [State.requestAll_responder, State.detailOutcome_responder, State.setChain_responder, State.reachBit_responder,
        Responder.outcome_of_not_waiting rests]
  · rw [testPattern, patternFrom_first _ first (by omega)]
    interval_cases k <;> rfl
  · refine ⟨_, mismatchCount returned, exec_testComplete run runs range returned, State.reachBit_butChain (keeps_endTest c _ _)
      fun d other => ?_, mismatchCount_le returned, mismatchCount_eq returned, ?_, ?_⟩ <;> rw [State.endTest_eq]
    · simp [Table.get_set_other _ _ other]
    · rw [State.requestAll_chains, State.setChain_chains, Table.get_set_self, State.reachBit_self]
      rfl
    · simp [madeNow_eq, integrityAction]

/-! ### The timeout -/

section
variable (c : Fin 4) (s : State)

theorem State.abortOperation_chains : (s.abortOperation c).chains = s.chains.set c (s.chains.get c).aborted := by
  rw [State.abortOperation_eq]

theorem State.abortOperation_collector : (s.abortOperation c).collector =
    if (s.chains.get c).state = .sweep then (s.sweepReport c (s.chains.get c).entered).collector else s.collector := by
  rw [State.abortOperation_eq]

theorem State.abortOperation_requests : (s.abortOperation c).requests = s.requests ++ [Request.made s.timeBase
    (.chainTimeout, BitVec.ofNat 6 c.val, .raise (some (BitVec.ofNat 16 (timeoutCode (s.chains.get c).state))))] := by
  rw [State.abortOperation_eq]

theorem State.abortOperation_responder : (s.abortOperation c).responder =
    if (s.chains.get c).hasDetail then s.responder.outcome none else s.responder := by rw [State.abortOperation_eq]

end

/-- Settles O52: the chain aborted, the sweep-end report, CHAIN_TIMEOUT and the failed detail, part by part. -/
theorem operationTimesOut : Obligations.OperationTimesOut := by
  unfold Obligations.OperationTimesOut
  refine ⟨?_, fun c s rests => ?_⟩
  · rintro c s expected code run clock final n rfl op
    obtain ⟨timed, bits, coded⟩ : timedOperation (s.chains.get c).state = true ∧
        expectedBits (s.chains.get c).state ((s.chains.get c).census.getD 0) = expected ∧
        timeoutCode (s.chains.get c).state = code := by
      rcases op with ⟨runs, rfl, rfl⟩ | ⟨runs, rfl, rfl⟩ | ⟨runs, rfl, rfl⟩ | ⟨runs, rfl, rfl⟩ <;>
        exact runs ▸ ⟨rfl, rfl, rfl⟩
    have may : (s.chains.get c).mayTimeOut = true := by simp [Chain.mayTimeOut, timed, clock, final]
    have done := exec_operationTimeout run may
    rw [Chain.bitLimit_of_timed rfl timed, bits] at done
    refine ⟨_, done, State.reachBit_butChain (keeps_abortOperation c _) fun d other => ?_, ?_, ?_, fun runs => ?_, fun runs d p => ?_,
      fun d asked filled waits => ?_⟩
    · rw [State.abortOperation_chains, Table.get_set_other _ _ other]
    · rw [State.abortOperation_chains, Table.get_set_self, State.reachBit_self]
      rfl
    · rw [State.abortOperation_requests, State.reachBit_requests, madeNow_eq,
        keeps_abortOperation c (s.reachBit c (expected + 64)) .timeBase (by simp), State.reachBit_self, coded]
      rfl
    · rw [State.abortOperation_collector, State.reachBit_self, if_neg runs, State.reachBit_collector]
    · rw [State.abortOperation_collector, State.reachBit_self, if_pos runs, State.sweepReport_tile, State.reachBit_collector]
    · have detail : Chain.hasDetail { s.chains.get c with bitCount := expected + 64 } = true := by simpa [Chain.hasDetail] using asked
      rw [State.abortOperation_responder, State.reachBit_self, if_pos detail, State.reachBit_responder,
        Responder.outcome_of_waiting filled waits]
      rfl
  · have may : (s.chains.get c).mayTimeOut = false := by
      rcases rests with e | e <;> simp [Chain.mayTimeOut, e]
    simp [exec, execOperationTimeout, may]

/-! ### The intervals -/

section
variable {c : Fin 4} {s : State} {d : Nat}

theorem exec_sweepPeriodExpiry (due : (s.chains.get c).sweepDue = some d) : exec (.sweepPeriodExpiry c) s =
    .next ((s.arriveAt d).setChain c { ((s.arriveAt d).chains.get c).postSweep with
      sweepDue := some (d + s.options.sweepSeconds * 1000000) }) := by
  simp [exec, execSweepPeriodExpiry, due, Config.second]

theorem exec_testPeriodExpiry (due : (s.chains.get c).testDue = some d) : exec (.testPeriodExpiry c) s =
    .next ((s.arriveAt d).setChain c { ((s.arriveAt d).chains.get c).postTest with
      testDue := some (d + s.options.testSeconds * 1000000) }) := by
  simp [exec, execTestPeriodExpiry, due, Config.second]

theorem exec_censusRetryExpiry (due : (s.chains.get c).retryDue = some d) : exec (.censusRetryExpiry c) s =
    .next ((s.arriveAt d).setChain c { ((s.arriveAt d).chains.get c).postCensus with retryDue := some (d + 10000000) }) := by
  simp [exec, execCensusRetryExpiry, due, Config.censusRetry, Config.second]

end

/-- Settles O53: the request posted, and the next expiry. -/
theorem chainIntervals : Obligations.ChainIntervals := by
  unfold Obligations.ChainIntervals
  rintro c s d ch on rfl
  have on' : ((s.arriveAt d).chains.get c).state ≠ .off := by
    rw [State.arriveAt_eq, State.passHalves_chain_eq]
    exact on
  have kept : ∀ x, KeepsButChain c [] (s.arriveAt d) ((s.arriveAt d).setChain c x) := fun x =>
    ⟨keeps_setChain c x _, fun e other => Table.get_set_other _ _ other⟩
  refine ⟨fun due => ⟨_, exec_sweepPeriodExpiry due, kept _, ?_⟩, fun due => ⟨_, exec_testPeriodExpiry due, kept _, ?_⟩,
    fun due => ⟨_, exec_censusRetryExpiry due, kept _, ?_⟩⟩ <;>
    rw [State.setChain_chains, Table.get_set_self]
  · rw [Chain.postSweep, if_neg on']
  · rw [Chain.postTest, if_neg on']
  · rw [Chain.postCensus, if_neg on']

end Sys2Proof.Machine
end

section
/-! The start of an operation, what it sends, and the port's select outputs (R114, R116 to R119, R125, R130, R132). -/

namespace Sys2Proof.Machine

open Sys2Proof

/-! ### Which request starts (R119) -/

section
variable {c : Fin 4} {s : State}

theorem State.startHighest_census (rests : (s.chains.get c).state = .idle ∨ (s.chains.get c).state = .down)
    (asked : (s.chains.get c).pend.census = true) : s.startHighest c = s.setChain c (s.chains.get c).startCensus := by
  unfold State.startHighest
  rcases rests with e | e <;> simp [e, asked]

/-- A chain that is neither IDLE nor DOWN starts nothing, nor does a DOWN one without a census (R119). -/
theorem State.startHighest_nothing (h : (s.chains.get c).state ≠ .idle)
    (down : (s.chains.get c).state = .down → (s.chains.get c).pend.census = false) : s.startHighest c = s := by
  rcases State.startHighest_cases c s with same | ⟨idle | rests, asked, -⟩ | ⟨idle, -⟩
  · exact same
  · exact absurd idle h
  · exact absurd asked (by simp [down rests])
  · exact absurd idle h

section
variable (rests : (s.chains.get c).state = .idle) (census : (s.chains.get c).pend.census = false)
include rests census

theorem State.startHighest_brightness (asked : (s.chains.get c).pend.brightness = true) :
    s.startHighest c = s.setChain c (s.chains.get c).startBrightness := by
  simp [State.startHighest, rests, census, asked]

variable (brightness : (s.chains.get c).pend.brightness = false)
include brightness

theorem State.startHighest_detail (asked : (s.chains.get c).pend.detail = true) :
    s.startHighest c = if s.marked c (s.chains.get c).pendingPosition then s.setChain c (s.chains.get c).startDetail
      else (s.setChain c (s.chains.get c).clearDetail).detailOutcome none := by
  simp [State.startHighest, State.startDetail, rests, census, brightness, asked]

variable (detail : (s.chains.get c).pend.detail = false)
include detail

theorem State.startHighest_sweep (asked : (s.chains.get c).pend.sweep = true) :
    s.startHighest c = s.setChain c (s.chains.get c).startSweep := by
  simp [State.startHighest, rests, census, brightness, detail, asked]

theorem State.startHighest_last (sweep : (s.chains.get c).pend.sweep = false) :
    s.startHighest c = if (s.chains.get c).pend.test then s.setChain c (s.chains.get c).startTest else s := by
  simp [State.startHighest, rests, census, brightness, detail, sweep]

end

/-- A start changes no other chain. -/
theorem State.startHighest_chain_other {d : Fin 4} (other : d ≠ c) : (s.startHighest c).chains.get d = s.chains.get d := by
  rcases State.startHighest_cases c s with h | ⟨-, -, h⟩ | ⟨-, -, ⟨-, h⟩ | ⟨-, -, ⟨-, h⟩ | ⟨-, h⟩⟩ |
    ⟨-, -, ⟨-, h⟩ | ⟨-, -, h⟩⟩⟩ <;> rw [h] <;> simp [Table.get_set_other _ _ other]

end

/-! ### What an operation sends (R116) -/

theorem Chain.sends_at_rest {ch : Chain} (rests : operating ch.state = false) (k : Nat) : ch.sends k = false := by
  simp [Chain.sends, rests]

theorem Chain.sends_zero {ch : Chain} (runs : operating ch.state = true) : ch.sends 0 = true := by simp [Chain.sends, runs]

theorem Chain.sends_succ (ch : Chain) (k : Nat) : ch.sends (k + 1) = (operating ch.state && ch.outgoing.getD k false) := rfl

/-- After its outgoing bits an operation sends 0 (R116). -/
theorem Chain.sends_after {ch : Chain} {k : Nat} (h : ch.outgoing.length < k) : ch.sends k = false := by
  obtain ⟨k, rfl⟩ : ∃ j, k = j + 1 := ⟨k - 1, by omega⟩
  rw [Chain.sends_succ, List.getD_eq_getElem?_getD, List.getElem?_eq_none (by omega), Option.getD_none, Bool.and_false]

theorem wordBits_length (w : BitVec 32) : (wordBits w).length = 32 := by simp [wordBits]

/-- The port's select outputs are those that its one chain has set (R114; log entry 28). -/
theorem State.chainOnPort_eq {s : State} {c p : Fin 4} (used : s.used c = true) (joined : s.options.crossbar.get c = p)
    (alone : ∀ d, s.used d = true → s.options.crossbar.get d = p → d = c) : s.chainOnPort p = some c := by
  have here : (s.used c && decide (s.options.crossbar.get c = p)) = true := by simp [used, joined]
  cases found : s.chainOnPort p with
  | none => exact absurd here (List.find?_eq_none.mp found c (List.mem_finRange c))
  | some d =>
    obtain ⟨used, joined⟩ : s.used d = true ∧ s.options.crossbar.get d = p := by simpa using List.find?_some found
    rw [alone d used joined]

/-- Settles O45: the request that starts, by its place in the order; the port's one chain; and the bits sent. -/
theorem operationStarts : Obligations.OperationStarts := by
  unfold Obligations.OperationStarts
  refine ⟨fun c s run => ?_, fun c p s used joined alone => ?_, fun ch => ⟨fun word sent => ?_, fun runs => ?_, fun runs => ?_,
    fun rests k => ?_⟩⟩
  · rintro ch rfl begun start
    have done : exec (.operationStart c) s = .next (s.startHighest c) := by simp [exec, execOperationStart, run]
    refine ⟨_, done, ⟨keeps_startHighest c s, fun d other => State.startHighest_chain_other other⟩, fun rests asked => ?_,
      fun rests census => ⟨fun asked => ?_, fun brightness asked => ⟨fun present => ?_, fun absent => ?_⟩,
        fun brightness detail => ⟨fun asked => ?_, fun sweep asked => ?_, fun sweep unasked => ?_⟩⟩,
      fun down unasked => ?_, fun idle down => ?_⟩
    · simp [State.startHighest_census rests asked, start, Chain.startCensus, Chain.start, Chain.begin]
    · simp [State.startHighest_brightness rests census asked, start, Chain.startBrightness, Chain.start, Chain.begin]
    · simp [State.startHighest_detail rests census brightness asked, present, start, Chain.startDetail, Chain.start, Chain.begin]
    · rw [State.startHighest_detail rests census brightness asked, if_neg (by simp [absent])]
      refine ⟨by simp [Chain.clearDetail], fun d filled waits => ?_⟩
      rw [State.detailOutcome_responder, State.setChain_responder, Responder.outcome_of_waiting filled waits]
      rfl
    · simp [State.startHighest_sweep rests census brightness detail asked, start, Chain.startSweep, Chain.start, Chain.begin]
    · simp [State.startHighest_last rests census brightness detail sweep, asked, start, Chain.startTest, Chain.start, Chain.begin]
    · simp [State.startHighest_last rests census brightness detail sweep, unasked]
    · exact State.startHighest_nothing (by simp [down]) fun _ => unasked
    · exact State.startHighest_nothing idle fun rests => absurd rests down
  · rw [State.selectOutputs, State.chainOnPort_eq used joined alone]
    rfl
  · obtain ⟨runs, bits⟩ : operating ch.state = true ∧ ch.outgoing = wordBits word := by
      rcases sent with ⟨e, rfl⟩ | ⟨e, rfl⟩ <;> simp [operating, Chain.outgoing, e, brightnessWord, selectWord]
    refine ⟨Chain.sends_zero runs, fun k inside => ?_, fun k past => Chain.sends_after (by rwa [bits, wordBits_length])⟩
    simp [Chain.sends_succ, runs, bits, wordBits, List.getD_eq_getElem?_getD, inside]
  · have bits : ch.outgoing = testPattern := by simp [Chain.outgoing, runs]
    have running : operating ch.state = true := by simp [operating, runs]
    refine ⟨Chain.sends_zero running, fun k inside => ?_, fun k past => Chain.sends_after (by rwa [bits, testPattern_length])⟩
    rw [Chain.sends_succ, running, Bool.true_and, bits, List.getD_eq_getElem _ _ (by rwa [testPattern_length]), List.getElem?_eq_getElem]
  · obtain ⟨running, bits⟩ : operating ch.state = true ∧ ch.outgoing = [] := by
      rcases runs with e | e <;> simp [operating, Chain.outgoing, e]
    exact ⟨Chain.sends_zero running, fun k past => Chain.sends_after (by simpa [bits] using past)⟩
  · exact Chain.sends_at_rest (by rcases rests with e | e | e <;> simp [operating, e]) k

end Sys2Proof.Machine
end

section
/-! The collector's take: which chain, what it leaves of the chain, and what a word does to its tile (R128, R143, R145 to R150). -/

namespace Sys2Proof.Machine

open Sys2Proof

/-! ### The chain taken from (R145) -/

theorem findSome?_fin_four {α : Type} {f : Fin 4 → Option α} {j : Fin 4} {a : α} (found : f j = some a)
    (before : ∀ i < j, f i = none) : [0, 1, 2, 3].findSome? f = some a := by
  have parts : ∀ j : Fin 4, [0, 1, 2, 3] = [0, 1, 2, 3].take j.val ++ j :: [0, 1, 2, 3].drop (j.val + 1) := by decide
  have earlier : ∀ j i : Fin 4, i ∈ [0, 1, 2, 3].take j.val → i < j := by decide
  exact List.findSome?_eq_some_iff.mpr ⟨_, j, _, parts j, found, fun i mem => before i (earlier j i mem)⟩

theorem State.nextChain_eq {s : State} {c : Fin 4} (full : (s.chains.get c).fifo ≠ [])
    (first : ∀ k : Fin 4, (k - s.collector.pointer).val < (c - s.collector.pointer).val → (s.chains.get k).fifo = []) :
    s.nextChain = some c := by
  refine findSome?_fin_four (j := c - s.collector.pointer) ?_ fun i before => ?_
  · simp [full]
  · simp [first (s.collector.pointer + i) (by rw [add_sub_cancel_left]; exact before)]

/-- A chain passed over is nearer to the pointer after the take (R145). -/
theorem pointer_nearer : ∀ p c d : Fin 4, d ≠ c → ¬(d - p).val < (c - p).val → (d - (c + 1)).val < (d - p).val := by decide

/-! ### What a word does to its tile (R147 to R150) -/

/-- The request that a condition gives as it comes to be reported, or ceases to be (R148). -/
def FaultAction.ofChange (old new : Bool) (detail : Nat) : Option FaultAction :=
  if old = new then none else if new then some (.raise (some (BitVec.ofNat 16 detail))) else some .withdraw

theorem stillReported_ofChange (old new : Bool) (detail : Nat) :
    stillReported old (FaultAction.ofChange old new detail) = new := by
  cases old <;> cases new <;> rfl

theorem conditionAction_eq (cause reported : Bool) (detail : Nat) :
    conditionAction cause reported detail = FaultAction.ofChange reported cause detail := by
  cases cause <;> cases reported <;> rfl

section
variable (o : Options) (r : Readings)

theorem le_celsius_iff (bound : Nat) : (bound : Int) ≤ celsius r ↔ bound + 40 ≤ r.temperature := by
  unfold celsius
  omega

theorem celsius_below_iff : celsius r < (o.warn : Int) - 5 ↔ r.temperature + 5 < o.warn + 40 := by
  unfold celsius
  omega

theorem warnRun_eq (run : Nat) : warnRun o r run = if r.temperature + 5 < o.warn + 40 then min (run + 1) 2 else 0 := by
  simp only [warnRun, celsius_below_iff, satSucc]

/-- THERMAL_CRIT begins at its bound, and ends below the bound of THERMAL_WARN (R149). -/
theorem critAction_eq (reported : Bool) : critAction o r reported = FaultAction.ofChange reported
    (decide (o.crit + 40 ≤ r.temperature) || reported && decide (o.warn + 40 ≤ r.temperature)) r.temperature := by
  unfold critAction
  simp only [← not_le, le_celsius_iff]
  by_cases hot : o.crit + 40 ≤ r.temperature <;> by_cases warm : o.warn + 40 ≤ r.temperature <;> cases reported <;>
    simp [FaultAction.ofChange, hot, warm]

/-- THERMAL_WARN begins at its bound, and ends with the second word in a row that reads well below it (R150). -/
theorem warnAction_eq (run : Nat) (reported : Bool) : warnAction o r run reported = FaultAction.ofChange reported
    (decide (o.warn + 40 ≤ r.temperature) || reported && !decide (r.temperature + 5 < o.warn + 40 ∧ run = 1)) r.temperature := by
  unfold warnAction
  simp only [le_celsius_iff, celsius_below_iff, Bool.and_eq_true, decide_eq_true_eq]
  by_cases warm : o.warn + 40 ≤ r.temperature <;> by_cases cool : r.temperature + 5 < o.warn + 40 ∧ run = 1 <;> cases reported <;>
    simp only [warm, cool, decide_true, decide_false] <;> rfl

/-- The reported set after a word (R148 to R150). -/
theorem TileRecord.handled_reported (t : TileRecord) : (t.handled o r).reported =
    { tileOpen := decide (0 < r.openCount)
      tileShort := decide (0 < r.shortCount)
      tileSupply := !r.driverSupplyOk || !r.tileOk
      thermalWarn := decide (o.warn + 40 ≤ r.temperature) ||
        t.reported.thermalWarn && !decide (r.temperature + 5 < o.warn + 40 ∧ t.warnClear = 1)
      thermalCrit := decide (o.crit + 40 ≤ r.temperature) || t.reported.thermalCrit && decide (o.warn + 40 ≤ r.temperature) } := by
  simp only [TileRecord.handled, conditionAction_eq, critAction_eq, warnAction_eq, stillReported_ofChange]

/-- The requests of a word: one for each condition that comes to be reported, or ceases to be, in the order of evaluation (R148 to
R150). -/
theorem wordRequests_eq (i : Fin 64) (t : TileRecord) : wordRequests o r i t =
    ([(FaultKind.tileOpen, t.reported.tileOpen, (t.handled o r).reported.tileOpen, r.openCount),
      (FaultKind.tileShort, t.reported.tileShort, (t.handled o r).reported.tileShort, r.shortCount),
      (FaultKind.tileSupply, t.reported.tileSupply, (t.handled o r).reported.tileSupply, supplyDetail r),
      (FaultKind.thermalCrit, t.reported.thermalCrit, (t.handled o r).reported.thermalCrit, r.temperature),
      (FaultKind.thermalWarn, t.reported.thermalWarn, (t.handled o r).reported.thermalWarn, r.temperature)].filterMap
      fun e => (FaultAction.ofChange e.2.1 e.2.2.1 e.2.2.2).map fun x => (e.1, BitVec.ofNat 6 i.val, x)) := by
  simp only [TileRecord.handled_reported, wordRequests, wordActions, conditionAction_eq, critAction_eq, warnAction_eq,
    List.filterMap_cons, List.filterMap_nil]

end

/-! ### The word handled, and the take -/

section
variable {c : Fin 4} {w : StatusWord} {s : State}

/-- A word for a tile that is absent is discarded (R147). -/
theorem State.handleWord_absent (absent : s.marked c w.position = false) : s.handleWord c w = s := by
  unfold State.handleWord
  split
  · next inside =>
    rw [State.marked_of_lt inside] at absent
    simp [absent]
  · rfl

/-- A word for a tile that is present changes that tile, and makes the requests of its conditions (R147 to R150). -/
theorem State.handleWord_present {p : Fin 16} (place : p.val = w.position)
    (present : (s.collector.tiles.get (tileIndex c p)).marked = true) : s.handleWord c w =
      (s.setTile (tileIndex c p) ((s.collector.tiles.get (tileIndex c p)).handled s.options (readingsOf w.word))).requestAll
        (wordRequests s.options (readingsOf w.word) (tileIndex c p) (s.collector.tiles.get (tileIndex c p))) := by
  obtain ⟨position, word⟩ := w
  obtain rfl : p.val = position := place
  simp [State.handleWord, p.isLt, present]

end

section
variable (c : Fin 4) (s : State)

/-- The chain and the collector after a take, before the word is handled (R145). -/
def State.afterTake : State :=
  { s.setChain c (s.chains.get c).taken with collector := { s.collector with pointer := c + 1, lastTake := some s.timeBase } }

@[simp] theorem State.afterTake_tiles : (s.afterTake c).collector.tiles = s.collector.tiles := rfl
@[simp] theorem State.afterTake_requests : (s.afterTake c).requests = s.requests := rfl
@[simp] theorem State.afterTake_options : (s.afterTake c).options = s.options := rfl

theorem State.take_eq {w : StatusWord} {rest : List StatusWord} (full : (s.chains.get c).fifo = w :: rest) :
    s.take c = (s.afterTake c).handleWord c w := by
  unfold State.take
  simp only [full]
  rfl

theorem State.take_chains : (s.take c).chains = s.chains.set c (s.chains.get c).taken := by
  cases fifo : (s.chains.get c).fifo with
  | nil =>
    unfold State.take
    simp only [fifo]
    rfl
  | cons w rest =>
    rw [State.take_eq c s fifo]
    exact keeps_handleWord c w (s.afterTake c) .chains (by simp)

end

/-- A word handled moves neither the pointer nor the moment of the last take. -/
theorem State.handleWord_round (c : Fin 4) (w : StatusWord) (s : State) :
    (s.handleWord c w).collector.pointer = s.collector.pointer ∧ (s.handleWord c w).collector.lastTake = s.collector.lastTake := by
  unfold State.handleWord
  split
  · dsimp only
    split <;> simp
  · exact ⟨rfl, rfl⟩

theorem Collector.freeAt_eq (k : Collector) : k.freeAt = (k.lastTake.map (· + 2)).getD 0 := by
  unfold Collector.freeAt
  cases k.lastTake <;> rfl

theorem exec_collectorTake {s : State} {c : Fin 4} (run : s.running = true) (free : s.collectorWaits = false)
    (found : s.nextChain = some c) :
    exec .collectorTake s = .next ((s.arriveAt ((s.collector.lastTake.map (· + 2)).getD 0)).take c) := by
  simp [exec, execCollectorTake, run, free, found, Collector.freeAt_eq]

/-- Settles O55: the chain found from the pointer on, what the take leaves of it, and the word handled. -/
theorem collectorTakes : Obligations.CollectorTakes := by
  unfold Obligations.CollectorTakes
  intro s c w rest run free full first
  generalize arrives : s.arriveAt ((s.collector.lastTake.map (· + 2)).getD 0) = u
  have done := exec_collectorTake run free (State.nextChain_eq (by simp [full]) first)
  rw [arrives] at done
  obtain ⟨bits, chain⟩ : ∃ k, u.chains.get c = { s.chains.get c with bitCount := k } := by
    rw [← arrives, State.arriveAt_eq]
    exact ⟨_, State.passHalves_chain_eq _ _ _⟩
  have collector : u.collector = s.collector := by simp [← arrives]
  have tiles : (u.afterTake c).collector.tiles = s.collector.tiles := by rw [State.afterTake_tiles, collector]
  have requests : u.requests = s.requests := by simp [← arrives]
  have options : u.options = s.options := by simp [← arrives]
  have taken := State.take_eq c u (w := w) (rest := rest) (by rw [chain]; exact full)
  obtain ⟨pointer, lastTake⟩ := State.handleWord_round c w (u.afterTake c)
  rw [← taken] at pointer lastTake
  refine ⟨_, u, done, rfl, ⟨keeps_take c u, fun d other => ?_⟩, pointer, lastTake, fun clear => ?_, fun r waits => ?_,
    fun absent => ?_, ?_, fun d other holds => ?_⟩
  · rw [State.take_chains, Table.get_set_other _ _ other]
  · rw [State.take_chains, Table.get_set_self, Chain.taken_of_clear (by rw [chain]; exact clear), chain]
    simp [full]
  · rw [State.take_chains, Table.get_set_self, Chain.taken_of_waiting (by rw [chain]; exact waits), chain]
    simp [full]
  · have unmarked : (u.afterTake c).marked c w.position = false := by
      rw [State.marked_congr (s := s) fun q => by rw [tiles]]
      exact absent
    rw [taken, State.handleWord_absent unmarked]
    exact ⟨tiles, requests⟩
  · rintro p place present old new r rfl rfl rfl
    have handled := State.handleWord_present (s := u.afterTake c) place (by rw [tiles]; exact present)
    rw [tiles, State.afterTake_options, options, ← taken] at handled
    have record : (u.take c).collector.tiles.get (tileIndex c p) =
        (s.collector.tiles.get (tileIndex c p)).handled s.options (readingsOf w.word) := by
      rw [handled, State.requestAll_collector, State.setTile_collector, Table.get_set_self]
    refine ⟨fun i other => ?_, ?_⟩
    · rw [handled, State.requestAll_collector, State.setTile_collector, Table.get_set_other _ _ other, tiles]
    · rw [record, madeNow_eq, keeps_take c u .timeBase (by simp)]
      refine ⟨present, rfl, rfl, ?_, ?_, ?_, ?_, warnRun_eq _ _ _, ?_, ?_⟩
      · simp [TileRecord.handled_reported]
      · simp [TileRecord.handled_reported]
      · simp [TileRecord.handled_reported, imp_iff_not_or]
      · simp [TileRecord.handled_reported]
      · simp [TileRecord.handled_reported, imp_iff_not_or]
      · rw [handled, State.requestAll_requests, wordRequests_eq]
        refine congrArg₂ _ requests (congrArg _ (List.filterMap_congr ?_))
        rintro ⟨kind, before, after, detail⟩ -
        cases before <;> cases after <;> rfl
  · rw [pointer]
    exact pointer_nearer _ _ _ other fun before => holds (first d before)

end Sys2Proof.Machine
end

section
/-! The fault table stays sound: what a raise, a withdraw and an expiry of the aging make of its records (R163, R164, R167 to R175,
R181). -/

namespace Sys2Proof.Machine

open Sys2Proof

/-! ### Records by their names -/

/-- No record is named twice (R164). -/
def NamedOnce (records : List FaultRecord) : Prop := records.Pairwise fun p q => ¬(p.kind = q.kind ∧ p.source = q.source)

theorem NamedOnce.concat {records : List FaultRecord} (h : NamedOnce records) {fresh : FaultRecord}
    (absent : ∀ r ∈ records, r.isFor fresh.kind fresh.source = false) : NamedOnce (records ++ [fresh]) := by
  refine List.pairwise_append.mpr ⟨h, List.pairwise_singleton _ _, fun r mem q new named => ?_⟩
  obtain rfl := List.mem_singleton.mp new
  exact Bool.false_ne_true ((absent r mem).symm.trans (FaultRecord.isFor_iff.mpr named))

/-- Records changed in their places, each under its own name. -/
theorem NamedOnce.map {records : List FaultRecord} (h : NamedOnce records) {f : FaultRecord → FaultRecord}
    (name : ∀ r, (f r).kind = r.kind ∧ (f r).source = r.source) : NamedOnce (records.map f) :=
  List.pairwise_map.mpr (h.imp fun apart => by simpa only [name] using apart)

/-- The record of a name is told from those before and after it. -/
theorem NamedOnce.others {before after : List FaultRecord} {r : FaultRecord} (once : NamedOnce (before ++ r :: after))
    {kind : FaultKind} {source : Source} (named : r.isFor kind source = true) :
    ∀ q ∈ before ++ after, q.isFor kind source = false := by
  obtain ⟨-, right, across⟩ := List.pairwise_append.mp once
  obtain ⟨later, -⟩ := List.pairwise_cons.mp right
  obtain ⟨rfl, rfl⟩ := FaultRecord.isFor_iff.mp named
  intro q mem
  refine Bool.eq_false_iff.mpr fun same => ?_
  obtain ⟨kind, source⟩ := FaultRecord.isFor_iff.mp same
  rcases List.mem_append.mp mem with mem | mem
  · exact across q mem r (List.mem_cons_self ..) ⟨kind, source⟩
  · exact later q mem ⟨kind.symm, source.symm⟩

/-! ### The output -/

/-- The FAULT output is asserted by an ACTIVE record above MINOR (R181). -/
theorem outputOf_iff {records : List FaultRecord} :
    outputOf records = true ↔ ∃ r ∈ records, r.state = .active ∧ faultSeverity r.kind ≠ .minor := by
  simp [outputOf, FaultRecord.assertsOutput]

/-! ### Tables with other records -/

section
variable {t : FaultTable} (h : t.Sound)
include h

/-- Other records make a sound table where they are few, told apart, in range, and enough for the flag. -/
theorem FaultTable.Sound.withRecords {records : List FaultRecord} (few : records.length ≤ 24) (once : NamedOnce records)
    (each : ∀ r ∈ records, r.Sound) (flag : 20 < t.records.length → 20 < records.length) : (t.withRecords records).Sound := by
  obtain ⟨-, -, -, -, overflow⟩ := h
  exact ⟨few, once, each, outputOf_iff, fun set => flag (overflow set)⟩

/-- A change of the records of one name that keeps their names and their ranges. -/
theorem FaultTable.Sound.update (kind : FaultKind) (source : Source) {f : FaultRecord → FaultRecord}
    (name : ∀ r, (f r).kind = r.kind ∧ (f r).source = r.source) (range : ∀ r, r.Sound → (f r).Sound) :
    (t.withRecords (updateRecord kind source f t.records)).Sound := by
  have ⟨few, once, each, _, _⟩ := h
  refine h.withRecords (by rwa [updateRecord_length]) (NamedOnce.map once fun r => ?_) (fun r mem => ?_)
    (by rw [updateRecord_length]; exact id)
  · split
    · exact name r
    · exact ⟨rfl, rfl⟩
  · obtain ⟨q, was, rfl⟩ := List.mem_map.mp mem
    split
    · exact range q (each q was)
    · exact each q was

/-- A new record joins others of the table, of which none has its name (R167, R173). -/
theorem FaultTable.Sound.add {kind : FaultKind} {source : Source} {detail : Option Detail} {kept : List FaultRecord}
    (sub : kept.Sublist t.records) (absent : ∀ r ∈ t.records, r.isFor kind source = false) (room : kept.length < 24)
    (flag : t.records.length ≤ kept.length + 1) : (t.withRecords (kept ++ [newRecord kind source detail])).Sound := by
  have ⟨_, once, each, _, _⟩ := h
  refine h.withRecords (by simpa using room) (NamedOnce.concat (once.sublist sub) fun r mem => absent r (sub.subset mem))
    (fun r mem => ?_) fun many => by simpa using many.trans_le flag
  rcases List.mem_append.mp mem with mem | new
  · exact each r (sub.subset mem)
  · obtain rfl := List.mem_singleton.mp new
    simp [newRecord, FaultRecord.Sound, Config.removalAge]

end

/-! ### Raise, withdraw and aging -/

theorem raisedRecord_sound (detail : Option Detail) {r : FaultRecord} (h : r.Sound) : (raisedRecord detail r).Sound := by
  obtain ⟨⟨least, most⟩, young, active⟩ := h
  unfold raisedRecord
  split
  · exact ⟨⟨least, most⟩, young, active⟩
  · exact ⟨⟨by simp [satSucc], satSucc_le _ _⟩, by simp [Config.removalAge], fun _ => rfl⟩

theorem clearedRecord_sound {r : FaultRecord} (h : r.Sound) : (clearedRecord r).Sound :=
  ⟨h.1, by simp [clearedRecord, Config.removalAge], fun _ => rfl⟩

/-- What is evicted is a record of the table (R173). -/
theorem evictionPlace_lt {severity : Severity} {records : List FaultRecord} {i : Nat}
    (h : evictionPlace severity records = some i) : i < records.length := by
  have found : ∀ p : FaultRecord → Bool, records.findIdx? p = some i → i < records.length := fun p e => by
    obtain ⟨inside, -⟩ := List.findIdx?_eq_some_iff_getElem.mp e
    exact inside
  unfold evictionPlace at h
  dsimp only at h
  split at h
  · split at h
    · exact found _ h
    · cases h
  · exact found _ h

theorem FaultTable.Sound.raise {t : FaultTable} (h : t.Sound) (kind : FaultKind) (source : Source) (detail : Option Detail) :
    (t.raise kind source detail).1.Sound := by
  have ⟨few, once, each, output, _⟩ := h
  rcases t.raise_cases kind source detail with ⟨r, -, -, e⟩ | ⟨absent, ⟨room, e⟩ | ⟨full, ⟨i, place, e⟩ | ⟨-, e⟩⟩⟩ <;> rw [e]
  · exact h.update kind source (fun r => ⟨raisedRecord_kind detail r, raisedRecord_source detail r⟩)
      fun r => raisedRecord_sound detail
  · exact h.add (.refl _) absent room (Nat.le_succ _)
  · have inside := evictionPlace_lt place
    have left := List.length_eraseIdx_of_lt inside
    simp only [Config.faultPlaces] at few
    exact h.add (List.eraseIdx_sublist _ _) absent (by omega) (by omega)
  · exact ⟨few, once, each, output, fun _ => lt_of_lt_of_le (by decide) full⟩

theorem FaultTable.Sound.withdraw {t : FaultTable} (h : t.Sound) (kind : FaultKind) (source : Source) :
    (t.withdraw kind source).1.Sound := by
  rcases t.withdraw_cases kind source with ⟨r, -, -, -, e⟩ | ⟨-, e⟩ <;> rw [e]
  · refine h.update kind source (fun r => ?_) fun r sound => ?_ <;> split
    · exact ⟨rfl, rfl⟩
    · exact ⟨rfl, rfl⟩
    · exact clearedRecord_sound sound
    · exact sound
  · exact h

/-- An expiry removes CLEARED records and ages others, and leaves the ACTIVE ones, on which alone the output rests (R171, R181). -/
theorem FaultTable.Sound.aged {t : FaultTable} (h : t.Sound) : t.aged.Sound := by
  obtain ⟨few, once, each, output, -⟩ := h
  refine ⟨?_, ?_, fun r mem => ?_, output.trans ?_, fun set => (t.aged_overflow.mp set).2⟩
  · rw [t.aged_records, List.length_map]
    exact (List.length_filter_le _ _).trans few
  · rw [t.aged_records]
    refine NamedOnce.map (List.Pairwise.filter _ once) fun r => ?_
    split <;> exact ⟨rfl, rfl⟩
  · rw [t.aged_records] at mem
    obtain ⟨q, left, rfl⟩ := List.mem_map.mp mem
    obtain ⟨was, kept⟩ := List.mem_filter.mp left
    obtain ⟨count, young, active⟩ := each q was
    split
    · exact ⟨count, young, active⟩
    · next cleared =>
      simp only [cleared, false_or, decide_eq_true_eq] at kept
      exact ⟨count, kept, fun now => absurd now cleared⟩
  · simp only [t.aged_records, List.mem_map, List.mem_filter, decide_eq_true_eq]
    constructor
    · rintro ⟨r, mem, active, severe⟩
      exact ⟨r, ⟨r, ⟨mem, .inl active⟩, if_pos active⟩, active, severe⟩
    · rintro ⟨_, ⟨r, ⟨mem, -⟩, rfl⟩, active, severe⟩
      split at active
      · next now => exact ⟨r, mem, now, by simpa [now] using severe⟩
      · next cleared => exact absurd active cleared

/-! ### Steps -/

/-- A table's soundness bears on nothing but its records, its output and its flag. -/
theorem FaultTable.Sound.congr {t u : FaultTable} (h : t.Sound) (records : u.records = t.records) (output : u.output = t.output)
    (overflow : u.overflow = t.overflow) : u.Sound := by
  unfold FaultTable.Sound
  rw [records, output, overflow]
  exact h

theorem KeepsLater.faults_eq {l : List Part} {s t : State} (h : KeepsLater l s t) (hl : Part.faults ∉ l) : t.faults = s.faults := by
  obtain ⟨n, h⟩ := h
  exact (h _ hl).trans (State.passHalves_faults n s)

/-- What taking a request makes of the table, and the record whose notice it offers (R167 to R170). -/
def FaultTable.take (kind : FaultKind) (source : Source) (action : FaultAction) (t : FaultTable) : FaultTable × Option FaultRecord :=
  match action with
  | .raise detail => t.raise kind source detail
  | .withdraw => t.withdraw kind source

/-- The event of the notice that a take offers (R178). -/
def FaultAction.event : FaultAction → NoticeEvent
  | .raise _ => .raised
  | .withdraw => .cleared

theorem FaultTable.Sound.take {t : FaultTable} (h : t.Sound) (kind : FaultKind) (source : Source) (action : FaultAction) :
    (t.take kind source action).1.Sound := by
  cases action with
  | raise detail => exact h.raise kind source detail
  | withdraw => exact h.withdraw kind source

theorem State.takeAction_eq (kind : FaultKind) (source : Source) (action : FaultAction) (s : State) :
    State.takeAction kind source action s =
      (s.setFaults (s.faults.take kind source action).1).offerNotice action.event (s.faults.take kind source action).2 := by
  cases action <;> rfl

@[simp] theorem State.offerNotice_faults (event : NoticeEvent) (r : Option FaultRecord) (s : State) :
    (s.offerNotice event r).faults = s.faults := by cases r <;> rfl

@[simp] theorem State.takeAction_faults (kind : FaultKind) (source : Source) (action : FaultAction) (s : State) :
    (State.takeAction kind source action s).faults = (s.faults.take kind source action).1 := by
  rw [State.takeAction_eq, State.offerNotice_faults, State.setFaults_faults]

/-- The table stays sound whether or not the request's turn has come. -/
theorem takeRequest_faultsSound (kind : FaultKind) (source : Source) (action : FaultAction) {s : State} (h : s.faults.Sound) :
    (s.takeRequest kind source action).faults.Sound := by
  have ensured : (s.ensureRequest kind source action).faults = s.faults := by
    rcases State.ensureRequest_cases kind source action s with e | e <;> rw [e]
    rfl
  rcases State.takeRequest_cases kind source action s with e | ⟨-, e⟩ <;> rw [e]
  · rwa [ensured]
  · rw [State.takeAction_faults]
    refine FaultTable.Sound.take ?_ kind source action
    exact h.congr (by simp [State.beginTake, ensured]) (by simp [State.beginTake, ensured]) (by simp [State.beginTake, ensured])

theorem faultsSound_exec {c : Instr} {s t : State} (inv : s.faults.Sound) (h : exec c s = .next t) : t.faults.Sound := by
  cases c with
  | resetAssert w => cases h; exact faultTableSound_reset
  | settlingWaitExpiry =>
    rcases exec_settlingWaitExpiry h with rfl | ⟨-, rfl⟩
    · exact inv
    · rw [State.startAll_keeps _ _ .faults (by simp)]
      exact inv.congr (by simp [State.release]) (by simp [State.release]) (by simp [State.release])
  | faultRaise kind source detail =>
    cases h
    split
    · exact inv
    · exact takeRequest_faultsSound _ _ _ inv
  | faultWithdraw kind source =>
    cases h
    split
    · exact inv
    · exact takeRequest_faultsSound _ _ _ inv
  | faultClearedAging =>
    cases due : s.faults.agingDue with
    | none =>
      simp only [exec, execFaultClearedAging, due] at h
      cases h
      exact inv
    | some d =>
      rw [exec_faultClearedAging due] at h
      cases h
      exact inv.aged.congr rfl rfl rfl
  | _ => rwa [(exec_keepsLater h).faults_eq (by simp [changes])]

/-- Settles O9: a take changes one record, adds one or gives one up, the aging removes CLEARED ones, and no other row but a reset
touches the records. -/
theorem stepKeepsFaultTableSound : Obligations.StepKeepsFaultTableSound := by
  unfold Obligations.StepKeepsFaultTableSound
  refine keptByStep_of_exec (fun _ _ inv => inv) (fun s inv => ?_) fun _ _ _ => faultsSound_exec
  rwa [show (s.passTime 1).faults = s.faults from State.passHalves_faults 2 s]

end Sys2Proof.Machine
end

section
/-! FAULT_RAISE and FAULT_WITHDRAW of the request that has waited longest: the record found, created or evicted, and the notice offered
(R165 to R170, R173, R174, R178, R181). -/

namespace Sys2Proof.Machine

open Sys2Proof

/-! ### The record evicted (R173) -/

theorem foldl_max_le_iff {α : Type} (g : α → Nat) (l : List α) (m n : Nat) :
    l.foldl (fun k x => max k (g x)) m ≤ n ↔ m ≤ n ∧ ∀ x ∈ l, g x ≤ n := by
  induction l generalizing m with
  | nil => simp
  | cons x rest ih => rw [List.foldl_cons, ih, max_le_iff, List.forall_mem_cons, and_assoc]

theorem le_foldl_min_iff {α : Type} (g : α → Nat) (l : List α) (m n : Nat) :
    n ≤ l.foldl (fun k x => min k (g x)) m ↔ n ≤ m ∧ ∀ x ∈ l, n ≤ g x := by
  induction l generalizing m with
  | nil => simp
  | cons x rest ih => rw [List.foldl_cons, ih, le_min_iff, List.forall_mem_cons, and_assoc]

/-- The greatest value is that of a member which none exceeds. -/
theorem foldl_max_eq {α : Type} {g : α → Nat} {l : List α} {x : α} (mem : x ∈ l) (most : ∀ y ∈ l, g y ≤ g x) :
    l.foldl (fun k y => max k (g y)) 0 = g x :=
  eq_of_forall_ge_iff fun n => (foldl_max_le_iff g l 0 n).trans
    ⟨fun ⟨_, all⟩ => all x mem, fun bound => ⟨Nat.zero_le n, fun y hy => (most y hy).trans bound⟩⟩

/-- The least value is that of a member which falls below none. -/
theorem foldl_min_eq {α : Type} {g : α → Nat} {l : List α} {x : α} {m : Nat} (mem : x ∈ l) (least : ∀ y ∈ l, g x ≤ g y)
    (start : g x ≤ m) : l.foldl (fun k y => min k (g y)) m = g x :=
  eq_of_forall_le_iff fun n => (le_foldl_min_iff g l m n).trans
    ⟨fun ⟨_, all⟩ => all x mem, fun bound => ⟨bound.trans start, fun y hy => bound.trans (least y hy)⟩⟩

theorem findIdx?_append_cons {α : Type} {p : α → Bool} {before after : List α} {x : α} (here : p x = true)
    (earlier : ∀ y ∈ before, p y = false) : (before ++ x :: after).findIdx? p = some before.length := by
  rw [List.findIdx?_append, List.findIdx?_eq_none_iff.mpr earlier, List.findIdx?_cons, here]
  simp

theorem Severity.code_le (severity : Severity) : severity.code ≤ 3 := by cases severity <;> decide

section
variable {records before after : List FaultRecord} {r : FaultRecord}

/-- The CLEARED record of the largest cleared age, the oldest-created of these, is evicted whatever is raised (R173). -/
theorem evictionPlace_cleared (severity : Severity) (e : records = before ++ r :: after) (cleared : r.state = .cleared)
    (earlier : ∀ q ∈ before, q.state = .cleared → q.clearedAge < r.clearedAge)
    (later : ∀ q ∈ after, q.state = .cleared → q.clearedAge ≤ r.clearedAge) :
    evictionPlace severity records = some before.length := by
  have mem : r ∈ records.filter fun q => q.state = .cleared := by simp [e, cleared]
  have top : (records.filter fun q => q.state = .cleared).foldl (fun m q => max m q.clearedAge) 0 = r.clearedAge := by
    refine foldl_max_eq (g := FaultRecord.clearedAge) mem fun q among => ?_
    simp only [e, List.mem_filter, List.mem_append, List.mem_cons, decide_eq_true_eq] at among
    obtain ⟨before | rfl | after, state⟩ := among
    · exact (earlier q before state).le
    · exact le_rfl
    · exact later q after state
  unfold evictionPlace
  dsimp only
  rw [if_neg (by simpa using List.ne_nil_of_mem mem), top, e]
  refine findIdx?_append_cons (by simp [cleared]) fun q mem => ?_
  by_cases state : q.state = .cleared
  · simp [(earlier q mem state).ne]
  · simp [state]

theorem evictionPlace_of_active (severity : Severity) (active : ∀ q ∈ records, q.state = .active) :
    evictionPlace severity records =
      let low := records.foldl (fun m q => min m (faultSeverity q.kind).code) 3
      if low < severity.code then records.findIdx? fun q => (faultSeverity q.kind).code = low else none := by
  have none_cleared : records.filter (fun q => q.state = .cleared) = [] :=
    List.filter_eq_nil_iff.mpr fun q mem => by simp [active q mem]
  simp [evictionPlace, none_cleared]

/-- Without a CLEARED record the oldest-created of the lowest severity is evicted by a raise of a higher one (R173). -/
theorem evictionPlace_lowest {severity : Severity} (active : ∀ q ∈ records, q.state = .active) (e : records = before ++ r :: after)
    (below : (faultSeverity r.kind).code < severity.code)
    (earlier : ∀ q ∈ before, (faultSeverity r.kind).code < (faultSeverity q.kind).code)
    (later : ∀ q ∈ after, (faultSeverity r.kind).code ≤ (faultSeverity q.kind).code) :
    evictionPlace severity records = some before.length := by
  have low : records.foldl (fun m q => min m (faultSeverity q.kind).code) 3 = (faultSeverity r.kind).code := by
    refine foldl_min_eq (g := fun q : FaultRecord => (faultSeverity q.kind).code) (x := r) (by simp [e]) (fun q among => ?_)
      (Severity.code_le _)
    simp only [e, List.mem_append, List.mem_cons] at among
    obtain before | rfl | after := among
    · exact (earlier q before).le
    · exact le_rfl
    · exact later q after
  rw [evictionPlace_of_active severity active, low]
  dsimp only
  rw [if_pos below, e]
  exact findIdx?_append_cons (by simp) fun q mem => by simpa using (earlier q mem).ne'

/-- Nothing is evicted by a raise that no record stands below (R174). -/
theorem evictionPlace_none {severity : Severity} (active : ∀ q ∈ records, q.state = .active)
    (above : ∀ q ∈ records, severity.code ≤ (faultSeverity q.kind).code) : evictionPlace severity records = none := by
  rw [evictionPlace_of_active severity active]
  exact if_neg (Nat.not_lt.mpr ((le_foldl_min_iff _ _ _ _).mpr ⟨Severity.code_le severity, above⟩))

end

/-! ### A take by what it finds -/

/-- Only the record named is changed by an update. -/
theorem updateRecord_append {kind : FaultKind} {source : Source} {before after : List FaultRecord} {r : FaultRecord}
    (once : NamedOnce (before ++ r :: after)) (named : r.isFor kind source = true) (f : FaultRecord → FaultRecord) :
    updateRecord kind source f (before ++ r :: after) = before ++ f r :: after := by
  have other : ∀ l : List FaultRecord, (∀ q ∈ l, q.isFor kind source = false) →
      (l.map fun q => if q.isFor kind source then f q else q) = l := fun l unnamed =>
    (List.map_congr_left fun q mem => by simp [unnamed q mem]).trans (List.map_id l)
  obtain ⟨earlier, later⟩ := List.forall_mem_append.mp (once.others named)
  rw [updateRecord, List.map_append, List.map_cons, if_pos named, other before earlier, other after later]

section
variable {t : FaultTable} {kind : FaultKind} {source : Source} {before after : List FaultRecord} {r : FaultRecord}

/-- A record of the table that bears the name is the one that stands there. -/
theorem FaultTable.Sound.eq_of_named (h : t.Sound) (e : t.records = before ++ r :: after) (named : r.isFor kind source = true)
    {q : FaultRecord} (mem : q ∈ t.records) (same : q.isFor kind source = true) : q = r := by
  have ⟨_, once, _⟩ := h
  have unnamed := NamedOnce.others (e ▸ once) named
  rw [e, List.mem_append, List.mem_cons] at mem
  obtain mem | rfl | mem := mem
  · exact absurd same (by simp [unnamed q (List.mem_append_left _ mem)])
  · rfl
  · exact absurd same (by simp [unnamed q (List.mem_append_right _ mem)])

theorem FaultTable.Sound.raise_found (h : t.Sound) (e : t.records = before ++ r :: after) (named : r.isFor kind source = true)
    (detail : Option Detail) : t.raise kind source detail =
      (t.withRecords (before ++ raisedRecord detail r :: after),
        if r.state = .cleared then some (raisedRecord detail r) else none) := by
  have ⟨_, once, _⟩ := h
  rcases t.raise_cases kind source detail with ⟨q, mem, same, raised⟩ | ⟨absent, -⟩
  · obtain rfl := h.eq_of_named e named mem same
    rw [raised, e, updateRecord_append (e ▸ once) named]
  · exact absurd named (by simp [absent r (by simp [e])])

theorem FaultTable.Sound.withdraw_active (h : t.Sound) (e : t.records = before ++ r :: after) (named : r.isFor kind source = true)
    (active : r.state = .active) : t.withdraw kind source =
      (t.withRecords (before ++ clearedRecord r :: after), some (clearedRecord r)) := by
  have ⟨_, once, _⟩ := h
  rcases t.withdraw_cases kind source with ⟨q, mem, same, -, withdrawn⟩ | ⟨inactive, -⟩
  · obtain rfl := h.eq_of_named e named mem same
    rw [withdrawn, e, updateRecord_append (e ▸ once) named, if_pos active]
  · exact absurd ⟨named, active⟩ (inactive r (by simp [e]))

theorem FaultTable.withdraw_idle (idle : ∀ q ∈ t.records, q.isFor kind source = true → q.state = .cleared) :
    t.withdraw kind source = (t, none) := by
  rcases t.withdraw_cases kind source with ⟨q, mem, same, active, -⟩ | ⟨-, e⟩
  · exact absurd ((idle q mem same).symm.trans active) (by simp)
  · exact e

variable (absent : ∀ q ∈ t.records, q.isFor kind source = false) (detail : Option Detail)
include absent

theorem FaultTable.raise_absent (room : t.records.length < 24) : t.raise kind source detail =
    (t.withRecords (t.records ++ [newRecord kind source detail]), some (newRecord kind source detail)) := by
  rcases t.raise_cases kind source detail with ⟨q, mem, same, -⟩ | ⟨-, ⟨-, e⟩ | ⟨full, -⟩⟩
  · exact absurd same (by simp [absent q mem])
  · exact e
  · exact absurd room (Nat.not_lt.mpr full)

/-- What a raise does on a full table depends on the place of eviction (R173, R174). -/
theorem FaultTable.raise_full (full : t.records.length = 24) :
    (∀ i, evictionPlace (faultSeverity kind) t.records = some i → t.raise kind source detail =
      (t.withRecords (t.records.eraseIdx i ++ [newRecord kind source detail]), some (newRecord kind source detail))) ∧
    (evictionPlace (faultSeverity kind) t.records = none → t.raise kind source detail = ({ t with overflow := true }, none)) := by
  rcases t.raise_cases kind source detail with ⟨q, mem, same, -⟩ | ⟨-, ⟨room, -⟩ | ⟨-, ⟨i, place, e⟩ | ⟨place, e⟩⟩⟩
  · exact absurd same (by simp [absent q mem])
  · exact absurd room (by simp [full, Config.faultPlaces])
  · exact ⟨fun j there => Option.some.inj (place.symm.trans there) ▸ e, fun nowhere => by simp [place] at nowhere⟩
  · exact ⟨fun j there => by simp [place] at there, fun _ => e⟩

/-- The record at the place of eviction gives way to the new one, which stands at the end (R173). -/
theorem FaultTable.raise_evicts (full : t.records.length = 24) (e : t.records = before ++ r :: after)
    (place : evictionPlace (faultSeverity kind) t.records = some before.length) : t.raise kind source detail =
      (t.withRecords (before ++ after ++ [newRecord kind source detail]), some (newRecord kind source detail)) := by
  have left : t.records.eraseIdx before.length = before ++ after := by
    rw [e, List.eraseIdx_append_of_length_le le_rfl, Nat.sub_self, List.eraseIdx_cons_zero]
  obtain ⟨evicts, -⟩ := FaultTable.raise_full absent detail full
  rw [evicts _ place, left]

end

/-! ### The take of the request that has waited longest -/

theorem FaultTable.take_keeps (kind : FaultKind) (source : Source) (action : FaultAction) (t : FaultTable) :
    (t.take kind source action).1.freeAt = t.freeAt ∧ (t.take kind source action).1.agingDue = t.agingDue := by
  cases action with
  | raise detail =>
    show (t.raise kind source detail).1.freeAt = _ ∧ (t.raise kind source detail).1.agingDue = _
    rcases t.raise_cases kind source detail with ⟨r, -, -, e⟩ | ⟨-, ⟨-, e⟩ | ⟨-, ⟨i, -, e⟩ | ⟨-, e⟩⟩⟩ <;> rw [e] <;> exact ⟨rfl, rfl⟩
  | withdraw =>
    show (t.withdraw kind source).1.freeAt = _ ∧ (t.withdraw kind source).1.agingDue = _
    rcases t.withdraw_cases kind source with ⟨r, -, -, -, e⟩ | ⟨-, e⟩ <;> rw [e] <;> exact ⟨rfl, rfl⟩

/-- The fault table occupied by a take that begins when the table is free (R166). -/
def State.occupied (s : State) : FaultTable := { s.faults with freeAt := (s.arriveAt s.faults.freeAt).timeBase + 1 }

theorem State.offerNotice_line (event : NoticeEvent) (r : Option FaultRecord) (s : State) :
    (s.offerNotice event r).line = r.elim s.line fun r => s.line.offer (s.notice event r) := by cases r <;> rfl

theorem State.notice_raised (s : State) (r : FaultRecord) : s.notice .raised r =
    { urgency := if faultSeverity r.kind = .critical then .alarm else .notice, sender := s.ownAddress
      kind := .faultNotice, payload := noticePayload .raised r } := by
  cases severity : faultSeverity r.kind <;> simp [State.notice, noticeUrgency, severity]

theorem State.notice_cleared (s : State) (r : FaultRecord) : s.notice .cleared r =
    { urgency := .notice, sender := s.ownAddress, kind := .faultNotice, payload := noticePayload .cleared r } := rfl

section
variable {kind : FaultKind} {source : Source} {action : FaultAction} {made : Nat} {rest : List Request} {s : State}
  (front : s.requests = ⟨made, kind, source, action⟩ :: rest)
include front

/-- What a take changes, and which frame it offers (R166, R178). -/
theorem State.takeRequest_front_does :
    Keeps [.faults, .requests, .line] (s.arriveAt s.faults.freeAt) (s.takeRequest kind source action) ∧
      (s.takeRequest kind source action).requests = rest ∧
      (s.takeRequest kind source action).faults = (s.occupied.take kind source action).1 ∧
      (s.takeRequest kind source action).line =
        (s.occupied.take kind source action).2.elim s.line fun r => s.line.offer (s.notice action.event r) := by
  rw [State.takeRequest_front front]
  refine ⟨Keeps.trans (t := { s.arriveAt s.faults.freeAt with requests := rest, faults := s.occupied }) (fun p hp => ?_)
    ((keeps_takeAction _ _ _ _).mono (by simp)), keeps_takeAction _ _ _ _ .requests (by simp), ?_, ?_⟩
  · cases p <;> simp_all [Part.agrees]
  · rw [State.takeAction_faults]; rfl
  · rw [State.takeAction_eq, State.offerNotice_line]
    simp [State.notice, State.ownAddress, State.occupied]

end

/-! ### The obligations -/

/-- Settles O57: the record that the raise finds, or the place that it finds for a new one. -/
theorem raiseTaken : Obligations.RaiseTaken := by
  unfold Obligations.RaiseTaken
  rintro kind source detail s _ made rest _ raised released sound front rfl rfl offered
  have occupied : s.occupied.Sound := sound
  obtain ⟨keeps, requests, faults, line⟩ := State.takeRequest_front_does front
  obtain ⟨free, aging⟩ := FaultTable.take_keeps kind source (.raise detail) s.occupied
  have ⟨_, _, _, output, _⟩ := occupied.take kind source (.raise detail)
  rw [← faults] at free aging output
  have becomes : ∀ {table out}, s.occupied.raise kind source detail = (table, out) →
      (s.takeRequest kind source (.raise detail)).faults = table ∧
        (s.takeRequest kind source (.raise detail)).line = out.elim s.line fun r => s.line.offer (s.notice .raised r) := by
    rintro table out e
    rw [faults, line, FaultTable.take, e]
    exact ⟨rfl, rfl⟩
  have notice : ∀ r, r.kind = kind → s.line.offer (s.notice .raised r) = raised r := by
    rintro r rfl
    rw [offered, State.notice_raised]
  have recorded : ∀ {records}, s.occupied.raise kind source detail =
      (s.occupied.withRecords records, some (newRecord kind source detail)) →
      (s.takeRequest kind source (.raise detail)).faults.overflow = s.faults.overflow ∧
        (s.takeRequest kind source (.raise detail)).faults.records = records ∧
        (s.takeRequest kind source (.raise detail)).line = raised (newRecord kind source detail) := by
    rintro records e
    obtain ⟨table, line⟩ := becomes e
    rw [table, line]
    exact ⟨rfl, rfl, notice _ rfl⟩
  refine ⟨_, by rw [exec, execFaultRaise, if_neg released], keeps, requests, free, aging, output,
    fun before r after e sameKind sameSource => ?_, fun others => ?_⟩
  · obtain ⟨table, line⟩ := becomes (occupied.raise_found e (FaultRecord.isFor_iff.mpr ⟨sameKind, sameSource⟩) detail)
    rw [table, line]
    refine ⟨rfl, fun active => ?_, fun cleared => ⟨raisedRecord detail r, ?_, rfl, ?_⟩⟩
    · simp [active, raisedRecord]
    · simp [cleared, raisedRecord, satSucc]
    · rw [if_pos cleared]
      exact notice _ ((raisedRecord_kind detail r).trans sameKind)
  · have absent : ∀ r ∈ s.occupied.records, r.isFor kind source = false := fun r mem =>
      Bool.eq_false_iff.mpr fun named => others r mem (FaultRecord.isFor_iff.mp named)
    refine ⟨fun room => recorded (FaultTable.raise_absent absent detail room), fun full =>
      ⟨fun before r after e cleared earlier later => recorded
          (FaultTable.raise_evicts absent detail full e (evictionPlace_cleared _ e cleared earlier later)),
        fun active => ⟨fun before r after e below earlier later => recorded
          (FaultTable.raise_evicts absent detail full e (evictionPlace_lowest active e below earlier later)), fun above => ?_⟩⟩⟩
    obtain ⟨-, drops⟩ := FaultTable.raise_full absent detail full
    obtain ⟨table, line⟩ := becomes (drops (evictionPlace_none active above))
    rw [table, line]
    exact ⟨rfl, rfl, rfl⟩

/-- Settles O58: the ACTIVE record that the withdraw finds, or none. -/
theorem withdrawTaken : Obligations.WithdrawTaken := by
  unfold Obligations.WithdrawTaken
  refine ⟨?_, fun source s => by simp [exec, execFaultWithdraw]⟩
  rintro kind source s _ made rest other released sound front rfl
  have occupied : s.occupied.Sound := sound
  obtain ⟨keeps, requests, faults, line⟩ := State.takeRequest_front_does front
  obtain ⟨free, aging⟩ := FaultTable.take_keeps kind source .withdraw s.occupied
  have ⟨_, _, _, output, _⟩ := occupied.take kind source .withdraw
  rw [← faults] at free aging output
  refine ⟨_, by simp [exec, execFaultWithdraw, released, other], keeps, requests, free, aging, ?_, output,
    fun before r after e sameKind sameSource active => ⟨clearedRecord r, rfl, ?_⟩, fun idle => ?_⟩
  · rw [faults, FaultTable.take]
    rcases s.occupied.withdraw_cases kind source with ⟨r, -, -, -, e⟩ | ⟨-, e⟩ <;> rw [e] <;> rfl
  · rw [faults, line, FaultTable.take, occupied.withdraw_active e (FaultRecord.isFor_iff.mpr ⟨sameKind, sameSource⟩) active]
    exact ⟨rfl, rfl⟩
  · rw [faults, line, FaultTable.take, FaultTable.withdraw_idle fun r mem named => ?_]
    · exact ⟨rfl, rfl⟩
    · obtain ⟨sameKind, sameSource⟩ := FaultRecord.isFor_iff.mp named
      exact idle r mem sameKind sameSource

end Sys2Proof.Machine
end

section
/-! Every step keeps the requests that wait in the order in which they were made (R166). -/

namespace Sys2Proof.Machine

open Sys2Proof

/-! ### Requests in order -/

/-- The requests of a state stand in their order, none of them made later than now (R166). -/
def RequestsInOrder (s : State) : Prop :=
  s.requests.Pairwise (fun p q => p.madeAt ≤ q.madeAt) ∧ ∀ r ∈ s.requests, r.madeAt ≤ s.timeBase

/-- Where requests are at most taken and no time passes backwards, the order stays. -/
theorem RequestsInOrder.sublist {s t : State} (h : RequestsInOrder s) (requests : t.requests.Sublist s.requests)
    (time : s.timeBase ≤ t.timeBase) : RequestsInOrder t := by
  obtain ⟨ordered, past⟩ := h
  exact ⟨ordered.sublist requests, fun r mem => (past r (requests.subset mem)).trans time⟩

/-- A row that makes and takes no request leaves the time base to the passing of time. -/
theorem RequestsInOrder.later {l : List Part} {s t : State} (h : RequestsInOrder s) (k : KeepsLater l s t)
    (hl : Part.requests ∉ l ∧ Part.timeBase ∉ l) : RequestsInOrder t := by
  refine h.sublist ?_ (k.timeBase_le hl.2)
  obtain ⟨n, k⟩ := k
  rw [k .requests hl.1, State.passHalves_requests]

theorem RequestsInOrder.arriveAt {s : State} (h : RequestsInOrder s) (t : Nat) : RequestsInOrder (s.arriveAt t) :=
  h.later (l := []) (Keeps.afterArrival Keeps.refl) (by simp)

theorem RequestsInOrder.reachBit {s : State} (h : RequestsInOrder s) (c : Fin 4) (k : Nat) : RequestsInOrder (s.reachBit c k) :=
  h.later (l := [.chains]) (Keeps.afterBit Keeps.refl (by simp)) (by simp)

/-! ### Requests made -/

/-- In `t` some requests more wait than in `s`, made at the same count of the time base. -/
def Asks (s t : State) : Prop := t.timeBase = s.timeBase ∧ ∃ rs, t.requests = s.requests ++ madeNow s rs

/-- What has just been made comes last. -/
theorem RequestsInOrder.asks {s t : State} (h : RequestsInOrder s) (k : Asks s t) : RequestsInOrder t := by
  obtain ⟨ordered, past⟩ := h
  obtain ⟨time, rs, requests⟩ := k
  have now : ∀ r ∈ madeNow s rs, r.madeAt = s.timeBase := fun r mem => by
    obtain ⟨_, -, rfl⟩ := List.mem_map.mp mem
    rfl
  unfold RequestsInOrder
  rw [requests, time]
  refine ⟨List.pairwise_append.mpr ⟨ordered, ?_, fun p old q new => (past p old).trans_eq (now q new).symm⟩, fun r mem => ?_⟩
  · exact List.pairwise_of_forall_mem_list fun p hp q hq => (now p hp).trans_le (now q hq).ge
  · rcases List.mem_append.mp mem with old | new
    · exact past r old
    · exact (now r new).le

theorem Asks.of_keeps {l : List Part} {s t : State} (h : Keeps l s t) (hl : Part.requests ∉ l ∧ Part.timeBase ∉ l) : Asks s t :=
  ⟨h .timeBase hl.2, [], (h .requests hl.1).trans (List.append_nil _).symm⟩

theorem Asks.refl (s : State) : Asks s s := .of_keeps (l := []) Keeps.refl (by simp)

theorem Asks.trans {s t u : State} (h : Asks s t) (k : Asks t u) : Asks s u := by
  obtain ⟨time, rs, requests⟩ := h
  obtain ⟨time_, rs_, requests_⟩ := k
  refine ⟨time_.trans time, rs ++ rs_, ?_⟩
  rw [requests_, requests, List.append_assoc, madeNow, madeNow, madeNow, time, List.map_append]

theorem asks_requestAll (rs : List (FaultKind × Source × FaultAction)) (s : State) : Asks s (s.requestAll rs) :=
  ⟨State.requestAll_timeBase s rs, rs, State.requestAll_requests s rs⟩

theorem asks_request (kind : FaultKind) (source : Source) (action : FaultAction) (s : State) :
    Asks s (s.request kind source action) := asks_requestAll [(kind, source, action)] s

/-! ### The operations -/

/-- An operation that keeps the time base, by the requests that it adds. -/
theorem Keeps.asks {l : List Part} {s t : State} (h : Keeps l s t) (hl : Part.timeBase ∉ l)
    {rs : List (FaultKind × Source × FaultAction)} (requests : t.requests = s.requests ++ madeNow s rs) : Asks s t :=
  ⟨h .timeBase hl, rs, requests⟩

theorem Asks.ite {b : Prop} [Decidable b] {s t u : State} (h : Asks s t) (k : Asks s u) : Asks s (if b then t else u) := by
  split
  · exact h
  · exact k

theorem asks_endWindow (i : Fin 2) (e : Nat) (s : State) : Asks s (s.endWindow i e) :=
  (keeps_endWindow i e s).asks (by simp) (by rw [State.endWindow_eq])

theorem asks_evaluateSample (p : Fin 4) (rest : List (Fin 4)) (sample : Nat) (s : State) :
    Asks s (s.evaluateSample p rest sample) :=
  (keeps_evaluateSample p rest sample s).asks (by simp) (by rw [State.evaluateSample_eq p rest sample s rfl rfl])

theorem asks_setLine_request (x : LineControl) (kind : FaultKind) (source : Source) (action : FaultAction) (s : State) :
    Asks s ((s.setLine x).request kind source action) :=
  (Asks.of_keeps (keeps_setLine x s) (by simp)).trans (asks_request _ _ _ _)

theorem asks_becomeIdle (w : LineSamples) (s : State) : Asks s (s.becomeIdle w) := by
  have idle : Asks s ((s.setLine (s.line.becomeIdle w.assembler.holdsFrame)).setWire w.becomeIdle) :=
    (Asks.of_keeps (keeps_setLine _ s) (by simp)).trans (.of_keeps (keeps_setWire _ _) (by simp))
  exact .ite (idle.trans (asks_request _ _ _ _)) idle

theorem asks_stick (w : LineSamples) (s : State) : Asks s (s.stick w) :=
  ((Asks.of_keeps (keeps_setLine _ s) (by simp)).trans (.of_keeps (keeps_setWire w _) (by simp))).trans (asks_request _ _ _ _)

theorem asks_abortFlight (f : Flight) (stop : Option Nat) (s : State) : Asks s (s.abortFlight f stop) :=
  .ite (asks_setLine_request _ _ _ _ s) (.of_keeps (keeps_setLine _ s) (by simp))

theorem asks_finishSend (s : State) : Asks s s.finishSend :=
  .ite (asks_setLine_request _ _ _ _ s) (.of_keeps (keeps_setLine _ s) (by simp))

theorem asks_clash (kind : BitVec 4) (s : State) : Asks s (s.clash kind) := asks_setLine_request _ _ _ _ s

theorem asks_markChain (c : Fin 4) (n : Nat) (s : State) : Asks s (s.markChain c n) :=
  (keeps_markChain c n s).asks (by simp) (State.markChain_requests c n s)

theorem asks_setChain (c : Fin 4) (x : Chain) (s : State) : Asks s (s.setChain c x) := .of_keeps (keeps_setChain c x s) (by simp)

theorem asks_censusUsable (c : Fin 4) (count : Nat) (s : State) : Asks s (s.censusUsable c count) := by
  rw [State.censusUsable_eq]
  exact ((asks_requestAll _ s).trans (asks_markChain _ _ _)).trans (asks_setChain _ _ _)

theorem asks_censusDown (c : Fin 4) (back : Bool) (s : State) : Asks s (s.censusDown c back) :=
  (keeps_censusDown c back s).asks (by simp) (rs := absenceWithdraws s c 0 ++
    [(.chainDown, BitVec.ofNat 6 c.val, .raise (some (if back then 0 else 0xFFFF)))])
    (by rw [State.censusDown_requests, List.append_assoc, madeNow_eq, List.map_append]; rfl)

theorem asks_endBrightness (c : Fin 4) (echo : BitVec 32) (s : State) : Asks s (s.endBrightness c echo) := by
  rw [State.endBrightness_eq]
  exact (asks_setChain _ _ s).trans (asks_requestAll _ _)

theorem asks_endDetail (c : Fin 4) (echo : BitVec 32) (words : DetailWords) (s : State) : Asks s (s.endDetail c echo words) := by
  rw [State.endDetail_eq]
  exact ((asks_setChain _ _ s).trans (.of_keeps (keeps_detailOutcome _ _) (by simp))).trans (asks_requestAll _ _)

theorem asks_endTest (c : Fin 4) (mismatches : Nat) (s : State) : Asks s (s.endTest c mismatches) := by
  rw [State.endTest_eq]
  exact (asks_setChain _ _ s).trans (asks_requestAll _ _)

theorem asks_abortOperation (c : Fin 4) (s : State) : Asks s (s.abortOperation c) :=
  (keeps_abortOperation c s).asks (by simp) (rs := [_]) (State.abortOperation_requests c s)

theorem asks_endSweep (c : Fin 4) (entered : List Nat) (x : Chain) (s : State) :
    Asks s (((s.sweepReport c entered).setChain c x).chainRequest c .chainTimeout .withdraw) :=
  ((Asks.of_keeps (keeps_sweepReport c entered s) (by simp)).trans (asks_setChain _ _ _)).trans (asks_request _ _ _ _)

theorem asks_handleWord (c : Fin 4) (w : StatusWord) (s : State) : Asks s (s.handleWord c w) := by
  unfold State.handleWord
  split
  · exact .ite ((Asks.of_keeps (keeps_setTile _ _ s) (by simp)).trans (asks_requestAll _ _)) (.refl s)
  · exact .refl s

theorem asks_take (c : Fin 4) (s : State) : Asks s (s.take c) := by
  have taken : Asks s (s.afterTake c) := (asks_setChain c _ s).trans (.of_keeps (keeps_collector _ _) (by simp))
  unfold State.take
  dsimp only
  split
  · exact taken
  · exact taken.trans (asks_handleWord _ _ _)

/-! ### Frames heard and requests taken -/

/-- A good frame is held back, with a request, or handed on to what makes none (R42 to R44). -/
theorem RequestsInOrder.hear {l : List Part} {s : State} (h : RequestsInOrder s) (octets : List Octet) (kind : BitVec 4)
    (sender : Addr) {take : State → State} (keeps : ∀ t, Keeps l t (take t)) (hl : Part.requests ∉ l ∧ Part.timeBase ∉ l) :
    RequestsInOrder (s.hear octets kind sender take) := by
  have counted : ∀ w, RequestsInOrder (s.arriveWith w).countGood := fun w =>
    (h.arriveAt w.sampledAt).asks ((Asks.of_keeps (keeps_arriveWith w s) (by simp)).trans (.of_keeps (keeps_countGood _) (by simp)))
  rcases State.hear_cases octets kind sender take s with ⟨-, e⟩ | ⟨w, -, ⟨-, -, e⟩ | ⟨-, e⟩⟩ <;> rw [e]
  · exact h
  · exact (counted w).asks (asks_clash _ _)
  · exact (counted w).asks (.of_keeps (keeps _) hl)

theorem RequestsInOrder.hearQuery {l : List Part} {s : State} (h : RequestsInOrder s) (q : Query) {respond : State → State}
    (keeps : ∀ t, Keeps l t (respond t)) (hl : Part.requests ∉ l ∧ Part.timeBase ∉ l) : RequestsInOrder (s.hearQuery q respond) :=
  h.hear _ _ _ (fun t => .ite (keeps t) Keeps.refl) hl

/-- A request named is made now unless it waits, and one whose turn has come leaves the others in their order. -/
theorem RequestsInOrder.takeRequest {s : State} (h : RequestsInOrder s) (kind : FaultKind) (source : Source) (action : FaultAction) :
    RequestsInOrder (s.takeRequest kind source action) := by
  have ensured : RequestsInOrder (s.ensureRequest kind source action) := by
    rcases State.ensureRequest_cases kind source action s with e | e <;> rw [e]
    · exact h
    · exact h.asks (asks_request _ _ _ s)
  rcases State.takeRequest_cases kind source action s with e | ⟨-, e⟩ <;> rw [e]
  · exact ensured
  · have begun := ensured.arriveAt (s.ensureRequest kind source action).faults.freeAt
    have free : RequestsInOrder { (s.ensureRequest kind source action).beginTake with
        requests := dropRequest kind source action (s.ensureRequest kind source action).requests } :=
      begun.sublist (by simpa using dropRequest_sublist kind source action _) le_rfl
    exact free.asks (.of_keeps (keeps_takeAction _ _ _ _) (by simp))

/-! ### The rows -/

theorem requestsInOrder_exec {c : Instr} {s t : State} (inv : RequestsInOrder s)
    (quiet : s.startUp.phase = .resetHeld → s.requests = []) (h : exec c s = .next t) : RequestsInOrder t := by
  cases c with
  | resetAssert w => cases h; exact ⟨List.Pairwise.nil, fun r mem => absurd mem (List.not_mem_nil)⟩
  | resetEnd straps =>
    cases h
    refine property_ite inv fun held => ?_
    have none : (s.endReset straps).requests = [] := quiet held
    simp [RequestsInOrder, none]
  | readOutcome octets =>
    rcases exec_readOutcome h with rfl | ⟨n, block, -, rfl⟩
    · exact inv
    · exact (inv.arriveAt n).asks ((Asks.of_keeps (keeps_handOver _ _ _) (by simp)).trans (asks_requestAll _ _))
  | gateWindowEnd i =>
    cases h
    split
    · exact inv
    · exact (inv.arriveAt _).asks (asks_endWindow _ _ _)
  | lineIdle => cases h; exact property_ite inv fun _ => (inv.arriveAt _).asks (asks_becomeIdle _ _)
  | stuckDominant => cases h; exact property_ite inv fun _ => (inv.arriveAt _).asks (asks_stick _ _)
  | bitError =>
    cases h
    refine property_ite inv fun _ => ?_
    split
    · exact (inv.arriveAt _).asks ((Asks.of_keeps (keeps_misread _ _ _) (by simp)).trans (asks_abortFlight _ _ _))
    · exact inv
  | frameSent =>
    cases h
    refine property_ite inv fun _ => ?_
    split
    · exact (inv.arriveAt _).asks ((Asks.of_keeps (keeps_setWire _ _) (by simp)).trans (asks_finishSend _))
    · exact inv
  | frameReceived kind sender payload =>
    cases h
    split
    · exact inv.hear _ _ _ (keeps_handOn _ _ _) (by simp)
    · exact inv.later (keepsLater_discard _ s) (by simp)
  | clashQuietExpiry =>
    cases h
    split
    · exact inv
    · exact (inv.arriveAt _).asks (asks_setLine_request _ _ _ _ _)
  | beaconReceived sender b => cases h; exact inv.hear _ _ _ (keeps_takeBeacon sender b) (by simp)
  | capSetting sender c duration => cases h; exact inv.hear _ _ _ (keeps_takeCap sender c _) (by simp)
  | capCancel sender c => cases h; exact inv.hear _ _ _ (keeps_takeCap sender c _) (by simp)
  | queryBadItem => cases h; exact inv.hearQuery _ (keeps_answer _) (by simp)
  | faults => cases h; exact inv.hearQuery _ (keeps_answerFaults _) (by simp)
  | tile => cases h; exact inv.hearQuery _ (keeps_answerTile _) (by simp)
  | tileDetail => cases h; exact inv.hearQuery _ (keeps_answerTileDetail _) (by simp)
  | view => cases h; exact inv.hearQuery _ (keeps_answerView _) (by simp)
  | levels => cases h; exact inv.hearQuery _ (keeps_answerLevels _) (by simp)
  | chain => cases h; exact inv.hearQuery _ (keeps_answerChain _) (by simp)
  | line => cases h; exact inv.hearQuery _ (keeps_answerLine _) (by simp)
  | censusComplete c lead =>
    cases h
    refine property_ite inv fun _ => ?_
    split
    · exact (inv.reachBit c _).asks (asks_censusUsable _ _ _)
    · exact (inv.reachBit c _).asks (asks_censusDown _ _ _)
  | censusUnusable c back => cases h; exact property_ite inv fun _ => (inv.reachBit c _).asks (asks_censusDown _ _ _)
  | brightnessComplete c lead echo => cases h; exact property_ite inv fun _ => (inv.reachBit c _).asks (asks_endBrightness _ _ _)
  | sweepComplete c => cases h; exact property_ite inv fun _ => inv.asks (asks_endSweep _ _ _ _)
  | detailComplete c lead echo words => cases h; exact property_ite inv fun _ => (inv.reachBit c _).asks (asks_endDetail _ _ _ _)
  | testComplete c lead returned => cases h; exact property_ite inv fun _ => (inv.reachBit c _).asks (asks_endTest _ _ _)
  | operationTimeout c => cases h; exact property_ite inv fun _ => (inv.reachBit c _).asks (asks_abortOperation _ _)
  | collectorTake =>
    cases h
    refine property_ite inv fun _ => ?_
    split
    · exact (inv.arriveAt _).asks (asks_take _ _)
    · exact inv
  | faultRaise kind source detail =>
    cases h
    split
    · exact inv
    · exact inv.takeRequest _ _ _
  | faultWithdraw kind source =>
    cases h
    split
    · exact inv
    · exact inv.takeRequest _ _ _
  | conversionComplete sample =>
    cases h
    split
    · exact inv
    · exact (inv.arriveAt _).asks (asks_evaluateSample _ _ _ _)
  | _ => exact inv.later (exec_keepsLater h) (by simp [changes])

/-- Settles O17: what is made is made now and joins at the end, a take leaves the others in their order, and where reset holds the time
base at 0 nothing waits. -/
theorem stepKeepsRequestsInOrder : Obligations.StepKeepsRequestsInOrder := by
  unfold Obligations.StepKeepsRequestsInOrder
  rintro s t ⟨held, inOrder⟩ h
  refine ⟨stepKeepsResetState s t held h, ?_⟩
  rcases step_cases h with ⟨-, rfl⟩ | ⟨c, rest, -, h⟩
  · exact RequestsInOrder.later inOrder (l := []) ⟨2, Keeps.refl⟩ (by simp)
  · refine requestsInOrder_exec (s := { s with pending := rest }) inOrder (fun phase => ?_) h
    show s.requests = []
    rw [held phase]
    rfl

end Sys2Proof.Machine
end

section
/-! TILE_DETAIL: what a first ask and a re-ask leave behind, and the machine that hears one (R193 to R196). -/

namespace Sys2Proof.Machine

open Sys2Proof

/-! ### A first ask (R194) -/

section
variable {q : Query} {i : Fin 64} {c : Fin 4} {s : State} (here : c.val = i.val / 16)
include here

/-- A first ask is refused for an absent tile and on a chain OFF or DOWN. -/
theorem State.firstAsk_refused
    (h : (s.collector.tiles.get i).marked = false ∨ (s.chains.get c).state = .off ∨ (s.chains.get c).state = .down) :
    s.firstAsk q i = s.reply q .unavailable [] := by
  have tileChain : (⟨i.val / 16, by omega⟩ : Fin 4) = c := Fin.ext here.symm
  rw [State.firstAsk, tileChain, if_pos (by simpa [or_assoc] using h)]

/-- Any other first ask makes the WAITING record and posts the detail request. -/
theorem State.firstAsk_taken (marked : (s.collector.tiles.get i).marked = true) (on : (s.chains.get c).state ≠ .off)
    (up : (s.chains.get c).state ≠ .down) :
    s.firstAsk q i = ((s.setDeferred (some ⟨q.asker, i.val, .waiting, 0⟩)).setChain c
      ((s.chains.get c).postDetail (i.val % 16))).reply q .deferred [] := by
  have tileChain : (⟨i.val / 16, by omega⟩ : Fin 4) = c := Fin.ext here.symm
  rw [State.firstAsk, tileChain, if_neg (by simp [marked, on, up]), State.postDetail, if_neg (by simpa using up),
    State.setDeferred_chains]

/-- A first ask is refused or taken. -/
theorem State.firstAsk_cases (q : Query) (s : State) :
    s.firstAsk q i = s.reply q .unavailable [] ∨
      s.firstAsk q i = ((s.setDeferred (some ⟨q.asker, i.val, .waiting, 0⟩)).setChain c
        ((s.chains.get c).postDetail (i.val % 16))).reply q .deferred [] := by
  by_cases refused : (s.collector.tiles.get i).marked = false ∨ (s.chains.get c).state = .off ∨ (s.chains.get c).state = .down
  · exact .inl (State.firstAsk_refused here refused)
  · simp only [not_or, Bool.not_eq_false] at refused
    obtain ⟨marked, on, up⟩ := refused
    exact .inr (State.firstAsk_taken here marked on up)

/-- A first ask touches no other chain than the tile's. -/
theorem State.firstAsk_otherChain (q : Query) (s : State) {d : Fin 4} (other : d ≠ c) :
    (s.firstAsk q i).chains.get d = s.chains.get d := by
  rcases State.firstAsk_cases here q s with e | e <;> rw [e]
  · rfl
  · exact Table.get_set_other _ _ other

theorem State.firstAsk_agingDue (q : Query) (s : State) : (s.firstAsk q i).responder.agingDue = s.responder.agingDue := by
  rcases State.firstAsk_cases here q s with e | e <;> rw [e] <;> rfl

end

/-- The request is new on a chain that is not OFF and has no detail pending (R118). -/
theorem Chain.postDetail_eq {ch : Chain} (on : ch.state ≠ .off) (clear : ch.pend.detail = false) (position : Nat) :
    ch.postDetail position = { ch with pend := { ch.pend with detail := true }, pendingPosition := position } :=
  if_neg (by simp [on, clear])

/-! ### A re-ask (R195) -/

section
variable {q : Query} {d : Deferred} {s : State}

/-- Another asker or another tile is answered BUSY. -/
theorem State.askAgain_busy (h : ¬(d.asker = q.asker ∧ d.tile = q.argument.toNat)) : s.askAgain q d = s.reply q .busy [] :=
  if_neg (by simpa using h)

section
variable (asker : d.asker = q.asker) (tile : d.tile = q.argument.toNat)
include asker tile

theorem State.askAgain_waiting (h : d.state = .waiting) : s.askAgain q d = s.reply q .deferred [] := by
  simp [State.askAgain, asker, tile, h]

theorem State.askAgain_ready {w : DetailWords} (h : d.state = .ready w) :
    s.askAgain q d = (s.setDeferred none).reply q .ok (detailData w) := by
  simp [State.askAgain, asker, tile, h]

theorem State.askAgain_failed (h : d.state = .failed) : s.askAgain q d = (s.setDeferred none).reply q .unavailable [] := by
  simp [State.askAgain, asker, tile, h]

end

theorem State.askAgain_agingDue (q : Query) (d : Deferred) (s : State) :
    (s.askAgain q d).responder.agingDue = s.responder.agingDue := by
  unfold State.askAgain
  split
  · split <;> rfl
  · rfl

end

/-! ### TILE_DETAIL heard -/

section
variable {q : Query} {s : State}

theorem State.answerTileDetail_free {i : Fin 64} (tile : i.val = q.argument.toNat) (free : s.responder.deferred = none) :
    s.answerTileDetail q = s.firstAsk q i := by
  have place : (⟨q.argument.toNat, by omega⟩ : Fin 64) = i := Fin.ext tile.symm
  rw [State.answerTileDetail, dif_pos (by omega), free, place]

theorem State.answerTileDetail_filled {d : Deferred} (tile : q.argument.toNat < 64) (filled : s.responder.deferred = some d) :
    s.answerTileDetail q = s.askAgain q d := by
  rw [State.answerTileDetail, dif_pos tile, filled]

end

section
variable {s u : State} {octets : List Octet} (heard : s.Hears octets u)
include heard

/-- A frame heard leaves of each chain all but how far its operation has run. -/
theorem State.Hears.chain_eq (c : Fin 4) : u.chains.get c = { s.chains.get c with bitCount := (u.chains.get c).bitCount } := by
  obtain ⟨-, -, -, _, _, w, -, -, -, rfl⟩ := heard
  exact State.passHalves_chain_eq _ s c

/-- The line after the REPLY to a QUERY heard, whatever became of the responder and the chains in between (R185). -/
theorem State.Hears.reply_line {t : State} (keeps : Keeps [.chains, .responder] u.countGood t) (q : Query) (status : ReplyStatus)
    (data : List Octet) : (t.reply q status data).line = s.line.afterGood.offer
      { urgency := .order, sender := s.ownAddress, kind := .reply
        payload := [BitVec.ofNat 8 (q.asker.toNat / 256), BitVec.ofNat 8 q.asker.toNat, q.tag, q.item, q.argument,
          BitVec.ofNat 8 status.code] ++ data } := by
  have line : t.line = u.countGood.line := keeps .line (by simp)
  have startUp : t.startUp = u.countGood.startUp := keeps .startUp (by simp)
  have same : (t.reply q status data).line = (u.countGood.reply q status data).line := by
    simp only [State.reply, State.offerFrame, State.setLine, State.ownAddress, line, startUp]
  rw [same, heard.reply_eq]

end

/-- Settles O60: the answer to a first ask by the tile and its chain, and to a later one by the record that stands. -/
theorem tileDetailProtocol : Obligations.TileDetailProtocol := by
  unfold Obligations.TileDetailProtocol
  intro asker arg tag s u reply i c heard speaks other tile chain replies
  have sends {t : State} (keeps : Keeps [.chains, .responder] u.countGood t) (status : ReplyStatus) (data : List Octet) :
      (t.reply ⟨asker, s.ownAddress.setWidth 16, 3, arg, tag⟩ status data).line = reply status.code data :=
    (heard.reply_line keeps _ status data).trans (replies _ _).symm
  refine ⟨_, Query.Row.exec_answered (q := ⟨asker, s.ownAddress.setWidth 16, 3, arg, tag⟩) (.tileDetail rfl) heard
    (.inr other) speaks rfl, ?_⟩
  rw [State.answer_tileDetail _ (by rfl)]
  generalize asked : (⟨asker, s.ownAddress.setWidth 16, 3, arg, tag⟩ : Query) = q at sends ⊢
  obtain ⟨rfl, rfl⟩ : asker = q.asker ∧ arg = q.argument := by subst asked; exact ⟨rfl, rfl⟩
  have frame : Keeps [.chains, .line, .responder] u (u.countGood.answerTileDetail q) :=
    ((keeps_countGood u).mono (by simp)).trans ((keeps_answerTileDetail q _).mono (by simp))
  have responder : u.countGood.responder = s.responder := heard.keeps .responder (by simp)
  cases record : s.responder.deferred with
  | none =>
    rw [State.answerTileDetail_free tile (responder ▸ record)] at frame ⊢
    have collector : u.countGood.collector = s.collector := heard.keeps .collector (by simp)
    have state : (u.countGood.chains.get c).state = (s.chains.get c).state := by
      rw [State.countGood_chains, heard.chain_eq]
    have pend : (u.countGood.chains.get c).pend = (s.chains.get c).pend := by
      rw [State.countGood_chains, heard.chain_eq]
    rw [← collector, ← state, ← pend]
    refine ⟨⟨frame, fun d away => State.firstAsk_otherChain chain q _ away⟩,
      (State.firstAsk_agingDue chain q _).trans (congrArg _ responder),
      fun _ => ⟨fun refused => ?_, fun marked on up clear => ?_⟩, by simp⟩
    · rw [State.firstAsk_refused chain refused]
      exact ⟨sends .refl .unavailable [], (congrArg _ responder).trans record, rfl⟩
    · rw [State.firstAsk_taken chain marked on up, Chain.postDetail_eq on clear, tile]
      refine ⟨sends ?_ .deferred [], rfl, Table.get_set_self _ _ _⟩
      exact ((keeps_setDeferred _ _).mono (by simp)).trans ((keeps_setChain c _ _).mono (by simp))
  | some d =>
    rw [State.answerTileDetail_filled (tile ▸ i.isLt) (responder ▸ record)] at frame ⊢
    have freed : Keeps [.chains, .responder] u.countGood (u.countGood.setDeferred none) :=
      (keeps_setDeferred none _).mono (by simp)
    have stands : u.countGood.responder.deferred = some d := responder ▸ record
    have chains : (u.countGood.askAgain q d).chains = u.chains := keeps_askAgain q d _ .chains (by simp)
    refine ⟨⟨frame, fun e _ => by rw [chains]⟩, (State.askAgain_agingDue q d _).trans (congrArg _ responder), by simp, ?_⟩
    rintro _ ⟨⟩
    refine ⟨chains, fun same place => ⟨fun waits => ?_, fun w ready => ?_, fun failed => ?_⟩, fun differs => ?_⟩
    · rw [State.askAgain_waiting same place waits]
      exact ⟨sends .refl .deferred [], stands⟩
    · rw [State.askAgain_ready same place ready]
      exact ⟨rfl, sends freed .ok _⟩
    · rw [State.askAgain_failed same place failed]
      exact ⟨sends freed .unavailable [], rfl⟩
    · rw [State.askAgain_busy differs]
      exact ⟨sends .refl .busy [], stands⟩

end Sys2Proof.Machine
end

section
/-! A step at a queue that holds a command. -/

namespace Sys2Proof.Machine

open Sys2Proof

/-- Settles O1: a queue that is not empty takes the step to its second branch, with its own first command and rest. -/
theorem frontCommandRuns : Obligations.FrontCommandRuns := by
  unfold Obligations.FrontCommandRuns
  intro c rest s waits
  unfold step
  split
  · next empty => exact absurd (empty.symm.trans waits) (List.cons_ne_nil c rest).symm
  · next c' rest' front =>
    obtain ⟨rfl, rfl⟩ : c' = c ∧ rest' = rest := List.cons.inj (front.symm.trans waits)
    rfl

end Sys2Proof.Machine
end
